-- ==== Sys2Proof/Word.lean ====
section
/-! DEFINITION. The bit vectors of FXQ under the spec's own names (spec/00_scope.md R9, 10_state.md R17, R18). -/

namespace Sys2Proof

/-- A request word `REQ`: 133 bits (30_encoding.md R45). -/
abbrev ReqWord := BitVec 133

/-- A response word `RSP`: 139 bits (30_encoding.md R47). -/
abbrev RspWord := BitVec 139

/-- A binary32 pattern (40_float_formats_and_arith.md R70). -/
abbrev Pat32 := BitVec 32

/-- A 64-bit float pattern (40_float_formats_and_arith.md R74). -/
abbrev Pat64 := BitVec 64

/-- A Q7 byte, or the byte operand of UNITB (R76, R160). -/
abbrev Byte := BitVec 8

/-- `msb(m)`: for `m >= 1` the index of the highest set bit of `m` (00_scope.md R9).
No rule applies it to 0. -/
def msb (m : Nat) : Nat := Nat.log2 m

end Sys2Proof
end

