-- ==== Sys2Proof/Syntax.lean ====
section
/-! DEFINITION. The operations of FXQ with their operands (spec/30_encoding.md R50 to R59): one constructor of
`Instr` per row of spec/opcode_table.json. -/

namespace Sys2Proof

/-- The four categories of a decoded float, in the order of their codes (30_encoding.md R59). -/
inductive Category where
  | normal
  | subnormal
  | infinity
  | nan
deriving DecidableEq, Repr

/-- The eight operation names, in the order of their codes (30_encoding.md R50). -/
inductive Op where
  | decomp
  | decode
  | recon
  | q7fs
  | q7fd
  | q7ts
  | q7td
  | unitb
deriving DecidableEq, Repr

/-- One operation with the operands it reads, each cut to the width the spec gives it (30_encoding.md R36, R51 to
R58, R61). Request bits an operation does not name are no part of it (R48). -/
inductive Instr where
  /-- DECOMP (R51): the binary32 pattern `a[31:0]`. -/
  | decomp (p : Pat32)
  /-- DECODE (R52): sign `a[0]`, raw exponent `b[7:0]`, raw fraction `c[22:0]`. -/
  | decode (sign : BitVec 1) (exponent : BitVec 8) (fraction : BitVec 23)
  /-- RECON (R53): multiplier `a[31:0]`, exponent value `b`, mantissa value `c`, category `k`. -/
  | recon (multiplier : Pat32) (exponentValue : Pat32) (mantissaValue : Pat32) (category : Category)
  /-- Q7FS (R54): the binary32 pattern `a[31:0]`. -/
  | q7fs (p : Pat32)
  /-- Q7FD (R55): the 64-bit float pattern `a`. -/
  | q7fd (p : Pat64)
  /-- Q7TS (R56): the Q7 byte `a[7:0]`. -/
  | q7ts (q : Byte)
  /-- Q7TD (R57): the Q7 byte `a[7:0]`. -/
  | q7td (q : Byte)
  /-- UNITB (R58): the byte `a[7:0]`. -/
  | unitb (b : Byte)
deriving DecidableEq, Repr

/-- The operation an instruction performs. -/
def Instr.op : Instr → Op
  | .decomp _ => .decomp
  | .decode _ _ _ => .decode
  | .recon _ _ _ _ => .recon
  | .q7fs _ => .q7fs
  | .q7fd _ => .q7fd
  | .q7ts _ => .q7ts
  | .q7td _ => .q7td
  | .unitb _ => .unitb

/-- The five request ports (10_state.md R17). -/
structure ReqPorts where
  op : BitVec 3
  k : BitVec 2
  a : BitVec 64
  b : BitVec 32
  c : BitVec 32
deriving DecidableEq, Repr

/-- The names of the response ports, as a host's line names one (10_state.md R18, 30_encoding.md R64). -/
inductive RspField where
  | y
  | y1
  | y2
  | cat
  | eu
deriving DecidableEq, Repr

/-- The value a host's line puts on a port (30_encoding.md R64): a literal, a category name, or a field of the
response of an earlier line, named by its label. -/
inductive LineValue where
  | literal (v : Nat)
  | categoryName (c : Category)
  | field (label : Nat) (f : RspField)
deriving DecidableEq, Repr

/-- One line of a host's program (30_encoding.md R64): a label, a mnemonic, and the ports. A port that a line does
not list is 0, "the canonical spelling". Labels are numbers here: DESIGN CHOICE, safe; log entry 10. -/
structure Line where
  label : Nat
  mnemonic : Op
  a : LineValue := .literal 0
  b : LineValue := .literal 0
  c : LineValue := .literal 0
  k : LineValue := .literal 0
deriving DecidableEq, Repr

end Sys2Proof
end

