-- ==== Sys2Proof/WellFormed.lean ====
section
/-! DEFINITION. Which terms of the syntax stand for something the hardware or its host can have. -/

namespace Sys2Proof

/-- Every instruction is well-formed: all codes, categories and operand patterns are legal (30_encoding.md R62), and
the operands' types hold exactly the widths of R36. Written out per operation, so that a new one cannot slip past. -/
def WellFormed : Instr → Bool
  | .decomp _ => true
  | .decode _ _ _ => true
  | .recon _ _ _ _ => true
  | .q7fs _ => true
  | .q7fd _ => true
  | .q7ts _ => true
  | .q7td _ => true
  | .unitb _ => true

/-- A value refers only to labels in `known`: a request that uses a field of an earlier response cannot be formed
before that response exists (30_encoding.md R64, 70_reset_and_hazards.md R193). -/
def LineValue.refersTo (known : List Nat) : LineValue → Bool
  | .literal _ => true
  | .categoryName _ => true
  | .field l _ => known.contains l

/-- A host's program is well-formed after the labels in `known`: each line's label is new and each of its values
refers to earlier lines only (30_encoding.md R64, 70_reset_and_hazards.md R193). -/
def programWellFormed (known : List Nat) : List Line → Bool
  | [] => true
  | l :: ls =>
    !known.contains l.label && l.a.refersTo known && l.b.refersTo known && l.c.refersTo known
      && l.k.refersTo known && programWellFormed (l.label :: known) ls

end Sys2Proof
end

