-- ==== Sys2Proof/Decode.lean ====
section
/-! DEFINITION. The request word (spec/30_encoding.md R45 to R63): decoding, which is total and rejects nothing
(R62), then the encoder. -/

namespace Sys2Proof

/-- The operation code of each operation (R50). -/
def Op.code : Op → BitVec 3
  | .decomp => 0#3
  | .decode => 1#3
  | .recon => 2#3
  | .q7fs => 3#3
  | .q7fd => 4#3
  | .q7ts => 5#3
  | .q7td => 6#3
  | .unitb => 7#3

/-- The operation a code selects (R50): all eight codes are assigned. -/
def Op.ofCode (c : BitVec 3) : Op :=
  if c = 0#3 then .decomp
  else if c = 1#3 then .decode
  else if c = 2#3 then .recon
  else if c = 3#3 then .q7fs
  else if c = 4#3 then .q7fd
  else if c = 5#3 then .q7ts
  else if c = 6#3 then .q7td
  else .unitb

/-- The code of each category (R59). -/
def Category.code : Category → BitVec 2
  | .normal => 0#2
  | .subnormal => 1#2
  | .infinity => 2#2
  | .nan => 3#2

/-- The category a code stands for (R59): all four codes are assigned. -/
def Category.ofCode (c : BitVec 2) : Category :=
  if c = 0#2 then .normal
  else if c = 1#2 then .subnormal
  else if c = 2#2 then .infinity
  else .nan

/-- Port `op` of a request word (R45). -/
def reqOp (w : ReqWord) : BitVec 3 := w.extractLsb' 0 3
/-- Port `k` of a request word (R45). -/
def reqK (w : ReqWord) : BitVec 2 := w.extractLsb' 3 2
/-- Port `a` of a request word (R45). -/
def reqA (w : ReqWord) : BitVec 64 := w.extractLsb' 5 64
/-- Port `b` of a request word (R45). -/
def reqB (w : ReqWord) : BitVec 32 := w.extractLsb' 69 32
/-- Port `c` of a request word (R45). -/
def reqC (w : ReqWord) : BitVec 32 := w.extractLsb' 101 32

/-- The instruction a request word holds: `REQ[2:0]` alone selects the operation (R46), each operand is a low slice
of its port (R51 to R58), and every other bit is ignored (R48). Total, and nothing is refused (R62). -/
def decode (w : ReqWord) : Instr :=
  match Op.ofCode (reqOp w) with
  | .decomp => .decomp ((reqA w).extractLsb' 0 32)
  | .decode => .decode ((reqA w).extractLsb' 0 1) ((reqB w).extractLsb' 0 8) ((reqC w).extractLsb' 0 23)
  | .recon => .recon ((reqA w).extractLsb' 0 32) (reqB w) (reqC w) (Category.ofCode (reqK w))
  | .q7fs => .q7fs ((reqA w).extractLsb' 0 32)
  | .q7fd => .q7fd (reqA w)
  | .q7ts => .q7ts ((reqA w).extractLsb' 0 8)
  | .q7td => .q7td ((reqA w).extractLsb' 0 8)
  | .unitb => .unitb ((reqA w).extractLsb' 0 8)

/-- The request word of a row of spec/opcode_table.json whose `nbits` bits are `w`: bits from `nbits` up are 0, and
what a container of whole bytes holds above bit 132 is no part of `REQ` (R45). DESIGN CHOICE, safe; log
entry 4. -/
def tableReq (nbits w : Nat) : ReqWord := BitVec.ofNat 133 (w % 2 ^ nbits)

/-- What the decoder reads from a word numbered as spec/opcode_table.json numbers it (R46). -/
def decodeTableWord (nbits w : Nat) : Option Instr := some (decode (tableReq nbits w))

/-- `REQ` as the concatenation of the request ports, `c` at the top and `op` at the bottom (R45). -/
def ReqPorts.toWord (p : ReqPorts) : ReqWord := p.c ++ p.b ++ p.a ++ p.k ++ p.op

/-- The ports of an instruction in the canonical spelling: narrow operands zero-extended, ports it does not use 0
(R51 to R58, R64). -/
def Instr.ports (i : Instr) : ReqPorts :=
  match i with
  | .decomp p => ⟨i.op.code, 0, p.setWidth 64, 0, 0⟩
  | .decode s e f => ⟨i.op.code, 0, s.setWidth 64, e.setWidth 32, f.setWidth 32⟩
  | .recon m x v k => ⟨i.op.code, k.code, m.setWidth 64, x, v⟩
  | .q7fs p => ⟨i.op.code, 0, p.setWidth 64, 0, 0⟩
  | .q7fd p => ⟨i.op.code, 0, p, 0, 0⟩
  | .q7ts q => ⟨i.op.code, 0, q.setWidth 64, 0, 0⟩
  | .q7td q => ⟨i.op.code, 0, q.setWidth 64, 0, 0⟩
  | .unitb b => ⟨i.op.code, 0, b.setWidth 64, 0, 0⟩

/-- The canonical request word of an instruction (R45, R51 to R58, R64). -/
def encode (i : Instr) : ReqWord := i.ports.toWord

end Sys2Proof
end

