-- ==== Sys2Proof/Config.lean ====
section
/-! DEFINITION. The hardwired constants of FXQ (spec/10_state.md R16), and what the spec leaves to an implementation. -/

namespace Sys2Proof.Config

/-- `BIAS` (R16): the exponent bias of binary32. -/
def bias : Nat := 127
/-- `RADIX` (R16): "fixed by the standard and never stored in the bit pattern". -/
def radix : Nat := 2
/-- `MANT_W` (R16): the width of the fraction field. -/
def mantWidth : Nat := 23
/-- `EXP_W` (R16): the width of the exponent field. -/
def expWidth : Nat := 8
/-- `SIGN_SHIFT` (R16). -/
def signShift : Nat := 31
/-- `EXP_SHIFT` (R16). -/
def expShift : Nat := 23
/-- `EXP_MASK` (R16). -/
def expMask : Pat32 := 0xFF#32
/-- `FRAC_MASK` (R16). -/
def fracMask : Pat32 := 0x007FFFFF#32
/-- `EXP_SPECIAL` (R16): the raw exponent of infinity and NaN. -/
def expSpecial : BitVec 8 := 255#8
/-- `EMIN` (R16): the effective exponent of the subnormal category. -/
def emin : Int := -126
/-- `Q7_SCALE` (R16): 2^7. -/
def q7Scale : Nat := 128
/-- `Q7_MAX` (R16). -/
def q7Max : Int := 127
/-- `Q7_MIN` (R16). -/
def q7Min : Int := -128
/-- `UNIT_BASE` (R16, R161): sign 0, exponent field 126, fraction 0, the value 0.5. -/
def unitBase : Pat32 := 0x3F000000#32
/-- `UNIT_SHIFT` (R16, R161): `MANT_W - 8`. -/
def unitShift : Nat := 15
/-- `QNAN` (R16, R82): the canonical NaN. -/
def qnan : Pat32 := 0x7FC00000#32
/-- `BIAS64` (R16, R74): the exponent bias of the 64-bit format. -/
def bias64 : Nat := 1023

/-- `LATENCY` (R7, R196): the cycles from request to response, left OPEN by the spec; no rule reads it and
no definition of the model does. DESIGN CHOICE, safe; log entry 5. -/
opaque latency : Nat

/-- FREE VALUE (R77): what a widened NaN carries in its fraction field before it is made non-zero; the rule
says "any non-zero value". DESIGN CHOICE, safe; log entry 6. -/
opaque widenNaNFraction : Pat32 → BitVec 52

/-- FREE VALUE (R80): `fadd32` of a pair that breaks its precondition (an operand that is not finite). No
operation forms such a sum. DESIGN CHOICE, safe; log entry 7. -/
opaque faddNonFinite : Pat32 → Pat32 → Pat32

end Sys2Proof.Config
end

