-- ==== Sys2Proof/Machine/State.lean ====
section
/-! DEFINITION. FXQ has no architectural state (spec/10_state.md R10 to R15, R19; 20_memory.md R30): it holds the unit
type. State puts beside it the two ports that a step reads and answers on, nothing else. -/

namespace Sys2Proof.Machine

/-- The response ports (10_state.md R18): one complete response. -/
structure Rsp where
  /-- first result, 64 bits -/
  y : BitVec 64
  /-- second result, 32 bits -/
  y1 : BitVec 32
  /-- third result, 32 bits -/
  y2 : BitVec 32
  /-- category code (DECODE only; 0 otherwise) -/
  cat : BitVec 2
  /-- effective exponent, two's complement (DECODE only; 0 otherwise) -/
  eu : BitVec 9
deriving DecidableEq, Repr

/-- What FXQ itself holds between transactions: the unit type, since it has no register, flag, mode, program counter
or memory (R10 to R15, R30). "The model's state type is the unit type" (R10). -/
abbrev Held := Unit

/-- What a step is told and what it hands back, around the unit that FXQ holds. The two ports are no storage: `req` is
the request of the transaction that comes next, `rsp` the response of the transaction that the last step was, and
neither outlives that (`State.present`, `State.quiet`). DESIGN CHOICE, unsafe: that ports stand in the type of the
host's step at all; log entry 1. -/
structure State where
  /-- What FXQ holds: nothing (R10). -/
  held : Held := ()
  /-- The request word presented for the next step; `none` when no request is presented (R17, R45, R190). -/
  req : Option ReqWord
  /-- The response that the last step gave; `none` when it gave none: "a response exists only as the answer to a
  request" (R18, R47, R190). -/
  rsp : Option Rsp
deriving DecidableEq, Repr

/-- There is no fault: "The set of synchronous exceptions of FXQ is empty" (60_exceptions.md R170). Nobody raises
one, and no constructor exists. -/
inductive Fault : Type
deriving DecidableEq, Repr

/-- The reasons an instruction could have no meaning. FXQ refuses nothing (R62, R170), and no arm of `exec` is
refused. -/
inductive Refusal where
  /-- An instruction the model gives no meaning yet, by its mnemonic. Raised by nobody: every row of the opcode
  table has its meaning. Safe: it would stop the machine where the hardware goes on. -/
  | notModelled (mnemonic : String)
deriving DecidableEq, Repr

/-- The machine before any request: none is presented and no response exists (10_state.md R19,
70_reset_and_hazards.md R190). There is no register to give a value. -/
def State.reset : State := { req := none, rsp := none }

end Sys2Proof.Machine
end

