-- ==== Sys2Proof/Machine/Operands.lean ====
section
/-! DEFINITION. The operand formats (spec/40_float_formats_and_arith.md): the fields of a pattern, the number it
stands for as an integer times a power of two, and widening. -/

namespace Sys2Proof.Machine

/-! ### binary32 (R70, R71) -/

/-- `S = p[31]` (R70). -/
def sign32 (p : Pat32) : BitVec 1 := p.extractLsb' 31 1
/-- `E = p[30:23]` (R70). -/
def exp32 (p : Pat32) : BitVec 8 := p.extractLsb' 23 8
/-- `F = p[22:0]` (R70). -/
def frac32 (p : Pat32) : BitVec 23 := p.extractLsb' 0 23
/-- The pattern of three fields: the concatenation with the sign most significant (R33, R70). -/
def pack32 (s : BitVec 1) (e : BitVec 8) (f : BitVec 23) : Pat32 := s ++ e ++ f

/-- The `m` of `(-1)^S * m * 2^e` for a finite binary32 pattern (R71). -/
def mag32 (p : Pat32) : Nat :=
  if exp32 p = 0#8 then (frac32 p).toNat else 2 ^ 23 + (frac32 p).toNat

/-- The `e` of `(-1)^S * m * 2^e` for a finite binary32 pattern (R71). -/
def ulp32 (p : Pat32) : Int :=
  if exp32 p = 0#8 then -149 else ((exp32 p).toNat : Int) - 150

/-! ### The 64-bit float (R74, R75) -/

/-- `S = p[63]` (R74). -/
def sign64 (p : Pat64) : BitVec 1 := p.extractLsb' 63 1
/-- `E = p[62:52]` (R74). -/
def exp64 (p : Pat64) : BitVec 11 := p.extractLsb' 52 11
/-- `F = p[51:0]` (R74). -/
def frac64 (p : Pat64) : BitVec 52 := p.extractLsb' 0 52
/-- The pattern of three fields (R74). -/
def pack64 (s : BitVec 1) (e : BitVec 11) (f : BitVec 52) : Pat64 := s ++ e ++ f

/-- The `m` of `(-1)^S * m * 2^e` for a finite 64-bit pattern (R75). -/
def mag64 (p : Pat64) : Nat :=
  if exp64 p = 0#11 then (frac64 p).toNat else 2 ^ 52 + (frac64 p).toNat

/-- The `e` of `(-1)^S * m * 2^e` for a finite 64-bit pattern (R75). -/
def ulp64 (p : Pat64) : Int :=
  if exp64 p = 0#11 then -1074 else ((exp64 p).toNat : Int) - 1075

/-! ### Q7 (R76) -/

/-- The stored integer of a Q7 byte: `sint_8(q)` (R76). -/
def q7Int (q : Byte) : Int := q.toInt

/-- `tc_8(i)`: the Q7 byte of an integer in `[-128, 127]` (R9, R76). -/
def q7OfInt (i : Int) : Byte := BitVec.ofInt 8 i

/-! ### Widening (R77) -/

/-- A fraction field made non-zero: every non-zero value comes from itself, and 0 gives 1. -/
def nonZeroFraction (f : BitVec 52) : BitVec 52 := if f = 0#52 then 1#52 else f

/-- `widen(p)`: binary32 to the 64-bit float, exact for every pattern that is not a NaN; a NaN stays a NaN, with a
free fraction (R77). -/
def widen (p : Pat32) : Pat64 :=
  if exp32 p = Config.expSpecial then
    if frac32 p = 0#23 then pack64 (sign32 p) 2047#11 0#52
    else pack64 (sign32 p) 2047#11 (nonZeroFraction (Config.widenNaNFraction p))
  else if exp32 p = 0#8 then
    if frac32 p = 0#23 then pack64 (sign32 p) 0#11 0#52
    else
      let P := msb (frac32 p).toNat
      pack64 (sign32 p) (BitVec.ofNat 11 (874 + P)) (BitVec.ofNat 52 (((frac32 p).toNat - 2 ^ P) <<< (52 - P)))
  else
    pack64 (sign32 p) (BitVec.ofNat 11 ((exp32 p).toNat + 896)) (BitVec.ofNat 52 ((frac32 p).toNat <<< 29))

end Sys2Proof.Machine
end

