-- ==== Sys2Proof/Machine/Flags.lean ====
section
/-! DEFINITION. FXQ has no flag and no condition code (spec/10_state.md R12, 40_float_formats_and_arith.md R83): an
operation only computes results. What other machines would flag is here a test on a pattern: the class predicates
(R72, R75) and the category (42_field_decoder.md R112), computed afresh in each transaction. -/

namespace Sys2Proof.Machine

/-- `isNaN32` (R72): no distinction of quiet and signalling. -/
def isNaN32 (p : Pat32) : Bool := exp32 p = 255#8 ∧ frac32 p ≠ 0#23
/-- `isInf32` (R72). -/
def isInf32 (p : Pat32) : Bool := exp32 p = 255#8 ∧ frac32 p = 0#23
/-- `isZero32` (R72). -/
def isZero32 (p : Pat32) : Bool := exp32 p = 0#8 ∧ frac32 p = 0#23
/-- `isSub32` (R72). -/
def isSub32 (p : Pat32) : Bool := exp32 p = 0#8 ∧ frac32 p ≠ 0#23
/-- `isNormal32` (R72). -/
def isNormal32 (p : Pat32) : Bool := 1 ≤ (exp32 p).toNat ∧ (exp32 p).toNat ≤ 254
/-- `isFinite32` (R72). -/
def isFinite32 (p : Pat32) : Bool := exp32 p ≠ 255#8
/-- `isNaN64` (R75). -/
def isNaN64 (p : Pat64) : Bool := exp64 p = 2047#11 ∧ frac64 p ≠ 0#52
/-- `isInf64` (R75). -/
def isInf64 (p : Pat64) : Bool := exp64 p = 2047#11 ∧ frac64 p = 0#52

/-- `category(E, F)` (R112): the four cases exclude each other; zero is SUBNORMAL (R113). -/
def category (e : BitVec 8) (f : BitVec 23) : Category :=
  if e = Config.expSpecial then (if f = 0#23 then .infinity else .nan)
  else if e = 0#8 then .subnormal
  else .normal

end Sys2Proof.Machine
end

