-- ==== Sys2Proof/Machine/Ops.lean ====
section
/-! DEFINITION. The shared operations: the ports (spec/30_encoding.md R47, R49), the binary32 arithmetic
(40_float_formats_and_arith.md R78 to R81) and the quantize function (44_q7_codec.md R140). FXQ takes no exception and
returns from none (60_exceptions.md R170, R174, R175), so no such operation stands here. -/

namespace Sys2Proof.Machine

/-! ### The ports -/

/-- `RSP` as the concatenation of the response ports, `eu` at the top and `y` at the bottom (R47). -/
def Rsp.toWord (r : Rsp) : RspWord := r.eu ++ r.cat ++ r.y2 ++ r.y1 ++ r.y

/-- A response whose only result is on port `y`; every other response bit is 0 (R49). -/
def yOnly (y : BitVec 64) : Rsp := { y := y, y1 := 0, y2 := 0, cat := 0, eu := 0 }

/-- The host presents a request word (70_reset_and_hazards.md R200); the response of an earlier transaction does not
stand beside it, since nothing holds it between transactions (10_state.md R12). DESIGN CHOICE, unsafe: a request
presented while another stands unanswered replaces it, and the one replaced gets no response; the spec's transaction
has no interval between presenting and answering (R8, R200). Log entry 13. -/
def State.present (s : State) (w : ReqWord) : State := { s with req := some w, rsp := none }

/-- FXQ answers the request: the request is taken and the response is what this step hands back (00_scope.md R8). Log
entry 1. -/
def State.answer (s : State) (r : Rsp) : State := { s with req := none, rsp := some r }

/-- No transaction takes place: no request stands, and no response, because "a response exists only as the answer to a
request" (10_state.md R19) and nothing holds an earlier one (R12). -/
def State.quiet (s : State) : State := { s with req := none, rsp := none }

/-- The instruction of the request presented, if one is (R46). -/
def fetch (s : State) : Option Instr := s.req.map decode

/-! ### round32 (R78) -/

/-- `m / 2^sh` rounded to the nearest integer, ties to even (the `else` branch of R78's `n`; `sh >= 1` there). -/
def shiftRightNearestEven (m sh : Nat) : Nat :=
  let n0 := m / 2 ^ sh
  let rem := m % 2 ^ sh
  let half := 2 ^ (sh - 1)
  if rem > half ∨ (rem = half ∧ n0 % 2 = 1) then n0 + 1 else n0

/-- The exponent `q` of the unit in the last place kept (R78). -/
def roundUnit (m : Nat) (e : Int) : Int := max (e + ((msb m : Int) + 1) - 24) (-149)

/-- The integer `n` with `n * 2^q` the rounded magnitude (R78). -/
def roundInteger (m : Nat) (e q : Int) : Nat :=
  if q ≤ e then m * 2 ^ (e - q).toNat else shiftRightNearestEven m (q - e).toNat

/-- The pattern of `(-1)^s * n * 2^q` for an `n < 2^24` already rounded (the end of R78). -/
def packRounded (s : BitVec 1) (n : Nat) (q : Int) : Pat32 :=
  if 2 ^ 23 ≤ n then
    if 255 ≤ q + 150 then pack32 s 255#8 0#23
    else pack32 s (BitVec.ofInt 8 (q + 150)) (BitVec.ofNat 23 (n - 2 ^ 23))
  else pack32 s 0#8 (BitVec.ofNat 23 n)

/-- `round32(s, m, e)` (R78): nearest to `(-1)^s * m * 2^e`, ties to even, gradual underflow, overflow to infinity. -/
def round32 (s : BitVec 1) (m : Nat) (e : Int) : Pat32 :=
  if m = 0 then pack32 s 0#8 0#23
  else
    let q := roundUnit m e
    let n := roundInteger m e q
    if n = 2 ^ 24 then packRounded s (2 ^ 23) (q + 1) else packRounded s n q

/-! ### fmul32, fadd32, fsub32 (R79 to R81) -/

/-- `fmul32(p, q)` (R79): total; NaN before infinity (R173); every NaN result is `QNAN` (R82). -/
def fmul32 (p q : Pat32) : Pat32 :=
  if isNaN32 p || isNaN32 q then Config.qnan
  else
    let s := sign32 p ^^^ sign32 q
    if isInf32 p || isInf32 q then
      if isZero32 p || isZero32 q then Config.qnan else pack32 s 255#8 0#23
    else round32 s (mag32 p * mag32 q) (ulp32 p + ulp32 q)

/-- `(-1)^s * m` as an integer. -/
def signedInt (s : BitVec 1) (m : Nat) : Int := if s = 1#1 then -(m : Int) else (m : Int)

/-- The sum of two finite patterns (R80): the exact sum, rounded once; an exact zero sum is `+0.0` unless both
operands are negative. -/
def faddFinite (p q : Pat32) : Pat32 :=
  let e0 := min (ulp32 p) (ulp32 q)
  let t := signedInt (sign32 p) (mag32 p * 2 ^ (ulp32 p - e0).toNat)
    + signedInt (sign32 q) (mag32 q * 2 ^ (ulp32 q - e0).toNat)
  if t = 0 then
    (if sign32 p = 1#1 ∧ sign32 q = 1#1 then pack32 1#1 0#8 0#23 else pack32 0#1 0#8 0#23)
  else round32 (if t < 0 then 1#1 else 0#1) t.natAbs e0

/-- `fadd32(p, q)` (R80), defined by the rule for finite operands only; outside that it is a free value, which no
operation asks for. DESIGN CHOICE, safe; log entry 7. -/
def fadd32 (p q : Pat32) : Pat32 :=
  if isFinite32 p && isFinite32 q then faddFinite p q else Config.faddNonFinite p q

/-- `fsub32(p, q)` (R81): addition of `q` with its sign bit inverted. -/
def fsub32 (p q : Pat32) : Pat32 := fadd32 p (pack32 (~~~ sign32 q) (exp32 q) (frac32 q))

/-! ### quant (R140) -/

/-- An extended real as the float formats give one (R140): a finite `(-1)^s * m * 2^e`, or an infinity. DEDUCED, safe;
log entry 12. -/
inductive ExtReal where
  | finite (s : BitVec 1) (m : Nat) (e : Int)
  | infinite (s : BitVec 1)
deriving DecidableEq, Repr

/-- The integer part of `m * 2^e`, exactly. -/
def integerPart (m : Nat) (e : Int) : Nat := if 0 ≤ e then m <<< e.toNat else m >>> (-e).toNat

/-- `quant(v)` (R140): `>= 1.0` gives 127, `<= -1.0` gives -128, else `v * 128` truncated toward zero, which is the
integer part of the magnitude with the sign applied. A magnitude is at least 1 when its integer part is; the scaling by
128 is exact. -/
def quant : ExtReal → Int
  | .infinite s => if s = 1#1 then Config.q7Min else Config.q7Max
  | .finite s m e =>
    if 1 ≤ integerPart m e then (if s = 1#1 then Config.q7Min else Config.q7Max)
    else signedInt s (integerPart (m * Config.q7Scale) e)

/-- The extended real of a 64-bit pattern that is not a NaN (R75, R142). -/
def ext64 (p : Pat64) : ExtReal :=
  if isInf64 p then .infinite (sign64 p) else .finite (sign64 p) (mag64 p) (ulp64 p)

/-- `Q7FD_core(p)` (R142): the NaN test first, a NaN gives 0 (R143). -/
def q7Core (p : Pat64) : Byte := if isNaN64 p then 0#8 else q7OfInt (quant (ext64 p))

end Sys2Proof.Machine
end

