-- ==== Sys2Proof/Machine/ByteMapper.lean ====
section
/-! DEFINITION. The Unit-Interval Byte Mapper: UNITB (spec/45_unit_interval_byte_mapper.md R160 to R164). -/

namespace Sys2Proof.Machine

/-- Steps (1) to (4) of R160: the byte placed in the fraction field of 0.5, read as a binary32 pattern. -/
def unitPattern (b : Byte) : Pat32 := Config.unitBase ||| (b.setWidth 32 <<< Config.unitShift)

/-- Step (5) of R160: `2 * (value - 0.5)`. -/
def unitValue (b : Byte) : Pat32 := fmul32 0x40000000#32 (fsub32 (unitPattern b) 0x3F000000#32)

/-- The response of UNITB (R160). -/
def unitbRsp (b : Byte) : Rsp := yOnly ((unitValue b).setWidth 64)

/-- UNITB (R160). -/
def execUnitb (b : Byte) (s : State) : Host.Outcome State Fault Refusal := .next (s.answer (unitbRsp b))

end Sys2Proof.Machine
end

