-- ==== Sys2Proof/Machine/FieldDecoder.lean ====
section
/-! DEFINITION. The Field Decoder: DECODE (spec/42_field_decoder.md R110 to R122). -/

namespace Sys2Proof.Machine

/-- `multiplier(S)` (R111): `+1.0` or `-1.0`. -/
def multiplier (s : BitVec 1) : Pat32 := pack32 s 0x7F#8 0#23

/-- `eff_exp(E)`, the bias remover (R114): -126 at raw exponent 0, else `E - 127`. -/
def effExp (e : BitVec 8) : Int :=
  if e = 0#8 then Config.emin else (e.toNat : Int) - (Config.bias : Int)

/-- `exp_value(E)`, the exponent decoder (R115), and `+0.0` on the special path (R116). -/
def expValue (e : BitVec 8) : Pat32 :=
  if e = Config.expSpecial then 0#32
  else if e = 0#8 then 0x00800000#32
  else pack32 0#1 e 0#23

/-- `acc0(E)`, the initial accumulator (R117). -/
def initialAcc (e : BitVec 8) : Pat32 := if e = 0#8 then 0x00000000#32 else 0x3F800000#32

/-- The weight of fraction bit `i`, the pattern of `2^(i-23)` (R118). -/
def weight (i : Nat) : Pat32 := pack32 0#1 (BitVec.ofNat 8 (104 + i)) 0#23

/-- One iteration of the accumulate loop (R118). -/
def accumulate (f : BitVec 23) (acc : Pat32) (i : Nat) : Pat32 :=
  if f.getLsbD i then fadd32 acc (weight i) else acc

/-- `mant_value(E, F)`: the accumulate loop, least significant bit first (R118), and `+0.0` on the special path
(R116). -/
def mantValue (e : BitVec 8) (f : BitVec 23) : Pat32 :=
  if e = Config.expSpecial then 0#32
  else (List.range Config.mantWidth).foldl (accumulate f) (initialAcc e)

/-- The response of DECODE (R110). -/
def decodeRsp (sign : BitVec 1) (exponent : BitVec 8) (fraction : BitVec 23) : Rsp :=
  { y := (multiplier sign).setWidth 64
    y1 := expValue exponent
    y2 := mantValue exponent fraction
    cat := (category exponent fraction).code
    eu := BitVec.ofInt 9 (effExp exponent) }

/-- DECODE (R110). -/
def execDecode (sign : BitVec 1) (exponent : BitVec 8) (fraction : BitVec 23) (s : State) :
    Host.Outcome State Fault Refusal :=
  .next (s.answer (decodeRsp sign exponent fraction))

end Sys2Proof.Machine
end

