-- ==== Sys2Proof/Machine/FieldExtractor.lean ====
section
/-! DEFINITION. The Field Extractor: DECOMP (spec/41_field_extractor.md R100 to R102). -/

namespace Sys2Proof.Machine

/-- The response of DECOMP (R100): shifts and masks on the 32-bit pattern, no interpretation. -/
def decompRsp (p : Pat32) : Rsp :=
  { y := (p >>> Config.signShift).setWidth 64
    y1 := (p >>> Config.expShift) &&& Config.expMask
    y2 := p &&& Config.fracMask
    cat := 0
    eu := 0 }

/-- DECOMP (R100). -/
def execDecomp (p : Pat32) (s : State) : Host.Outcome State Fault Refusal := .next (s.answer (decompRsp p))

end Sys2Proof.Machine
end

