-- ==== Sys2Proof/Machine/Q7Codec.lean ====
section
/-! DEFINITION. The Q7 quantizer and dequantizer: Q7FS, Q7FD, Q7TS, Q7TD (spec/44_q7_codec.md R140 to R150). -/

namespace Sys2Proof.Machine

/-- The Q7 byte of a binary32 pattern (R141): a NaN gives 0 (R143), tested first (60_exceptions.md R173); else the
pattern is widened and quantized as a 64-bit float. That this equals `Q7FD_core(widen(p))` for a NaN too, whatever
fraction the widened NaN carries, is the statement Q7fsIsCoreOfWidened. DEDUCED, safe; log entry 11. -/
def q7OfPat32 (p : Pat32) : Byte := if isNaN32 p then 0#8 else q7Core (widen p)

/-- The response of Q7FS (R141). -/
def q7fsRsp (p : Pat32) : Rsp := yOnly ((q7OfPat32 p).setWidth 64)

/-- Q7FS (R141). -/
def execQ7fs (p : Pat32) (s : State) : Host.Outcome State Fault Refusal := .next (s.answer (q7fsRsp p))

/-- The response of Q7FD (R142). -/
def q7fdRsp (p : Pat64) : Rsp := yOnly ((q7Core p).setWidth 64)

/-- Q7FD (R142). -/
def execQ7fd (p : Pat64) (s : State) : Host.Outcome State Fault Refusal := .next (s.answer (q7fdRsp p))

/-- The sign bit of a stored integer: 1 when it is negative (R145, R146). -/
def intSign (v : Int) : BitVec 1 := if v < 0 then 1#1 else 0#1

/-- The binary32 pattern of `v / 128` for a Q7 byte (R146); zero gives `+0.0`. -/
def pat32OfQ7 (q : Byte) : Pat32 :=
  let v := q7Int q
  if v = 0 then 0#32
  else
    let M := v.natAbs
    let P := msb M
    pack32 (intSign v) (BitVec.ofNat 8 (120 + P)) (BitVec.ofNat 23 ((M - 2 ^ P) <<< (23 - P)))

/-- The 64-bit pattern of `v / 128` for a Q7 byte (R145); zero gives `+0.0`. -/
def pat64OfQ7 (q : Byte) : Pat64 :=
  let v := q7Int q
  if v = 0 then 0#64
  else
    let M := v.natAbs
    let P := msb M
    pack64 (intSign v) (BitVec.ofNat 11 (1016 + P)) (BitVec.ofNat 52 ((M - 2 ^ P) <<< (52 - P)))

/-- The response of Q7TS (R146). -/
def q7tsRsp (q : Byte) : Rsp := yOnly ((pat32OfQ7 q).setWidth 64)

/-- Q7TS (R146). -/
def execQ7ts (q : Byte) (s : State) : Host.Outcome State Fault Refusal := .next (s.answer (q7tsRsp q))

/-- The response of Q7TD (R145). -/
def q7tdRsp (q : Byte) : Rsp := yOnly (pat64OfQ7 q)

/-- Q7TD (R145). -/
def execQ7td (q : Byte) (s : State) : Host.Outcome State Fault Refusal := .next (s.answer (q7tdRsp q))

end Sys2Proof.Machine
end

