-- ==== Sys2Proof/Machine/Reconstructor.lean ====
section
/-! DEFINITION. The Reconstructor: RECON (spec/43_reconstructor.md R130 to R138). -/

namespace Sys2Proof.Machine

/-- The result of RECON (R130): the category alone selects the path (R131, R135). NAN gives `QNAN` (R133), INFINITY
the infinity of the sign of `A` (R132), else two multiplications, left to right (R134). -/
def reconstruct (A B C : Pat32) (K : Category) : Pat32 :=
  match K with
  | .nan => Config.qnan
  | .infinity => pack32 (sign32 A) 255#8 0#23
  | .normal => fmul32 (fmul32 A B) C
  | .subnormal => fmul32 (fmul32 A B) C

/-- The response of RECON (R130). -/
def reconRsp (A B C : Pat32) (K : Category) : Rsp := yOnly ((reconstruct A B C K).setWidth 64)

/-- RECON (R130). -/
def execRecon (A B C : Pat32) (K : Category) (s : State) : Host.Outcome State Fault Refusal :=
  .next (s.answer (reconRsp A B C K))

end Sys2Proof.Machine
end

