-- ==== Sys2Proof/Machine/Dispatch.lean ====
section
/-! DEFINITION. `exec`: one arm per operation (spec/30_encoding.md R50). -/

namespace Sys2Proof.Machine

def exec (i : Instr) (s : State) : Host.Outcome State Fault Refusal :=
  match i with
  | .decomp p => Sys2Proof.Machine.execDecomp p s
  | .decode sign exponent fraction => Sys2Proof.Machine.execDecode sign exponent fraction s
  | .recon a b c k => Sys2Proof.Machine.execRecon a b c k s
  | .q7fs p => Sys2Proof.Machine.execQ7fs p s
  | .q7fd p => Sys2Proof.Machine.execQ7fd p s
  | .q7ts q => Sys2Proof.Machine.execQ7ts q s
  | .q7td q => Sys2Proof.Machine.execQ7td q s
  | .unitb b => Sys2Proof.Machine.execUnitb b s

end Sys2Proof.Machine
end

