-- ==== Sys2Proof/Machine/Step.lean ====
section
/-! DEFINITION. One step: a transaction on the request presented (spec/00_scope.md R8). -/

namespace Sys2Proof.Machine

/-- One step. With a request presented it is the transaction of that request (R8). With none there is no transaction
and so no response (10_state.md R19, 70_reset_and_hazards.md R190). DESIGN CHOICE, unsafe: the spec knows no step
without a request; log entry 2. -/
def step (s : State) : Host.Outcome State Fault Refusal :=
  match fetch s with
  | some i => exec i s
  | none => .next s.quiet

/-- The state with a row of spec/opcode_table.json as the next request: the host's one way of presenting (R200), so an
earlier response is gone here too (10_state.md R12, log entry 1) and a request still standing is replaced (log entry 13).
DEDUCED, safe; log entries 3 and 4. -/
def State.withFetchWord (s : State) (nbits w : Nat) : State := s.present (tableReq nbits w)

end Sys2Proof.Machine
end

