-- ==== Sys2Proof/Machine/Respond.lean ====
section
/-! DEFINITION. FXQ as the pure function `fxq : REQ -> RSP` (spec/00_scope.md R8, 20_memory.md R38): the response of
an operation, said without a state. -/

namespace Sys2Proof.Machine

/-- The response of an operation. -/
def respond : Instr → Rsp
  | .decomp p => decompRsp p
  | .decode sign exponent fraction => decodeRsp sign exponent fraction
  | .recon a b c k => reconRsp a b c k
  | .q7fs p => q7fsRsp p
  | .q7fd p => q7fdRsp p
  | .q7ts q => q7tsRsp q
  | .q7td q => q7tdRsp q
  | .unitb b => unitbRsp b

/-- `fxq(REQ)` (R8). -/
def fxq (w : ReqWord) : Rsp := respond (decode w)

end Sys2Proof.Machine
end

