-- ==== Sys2Proof/Machine/HostProgram.lean ====
section
/-! DEFINITION. The host's side of the interface: how a line of a program becomes a request (spec/30_encoding.md R60,
R64), how a list of lines is issued, and the pseudo-operations a host expands (R65). FXQ executes none of this; it
answers the requests. -/

namespace Sys2Proof.Machine

/-- The responses a host has so far, by label, newest first. -/
abbrev Answers := List (Nat × Rsp)

/-- The number on a response field (R64). -/
def Rsp.read (r : Rsp) : RspField → Nat
  | .y => r.y.toNat
  | .y1 => r.y1.toNat
  | .y2 => r.y2.toNat
  | .cat => r.cat.toNat
  | .eu => r.eu.toNat

/-- The number a line's value stands for, before it is fitted to its port (R64); none when its label has no
response yet (70_reset_and_hazards.md R193). -/
def lineValue (answers : Answers) : LineValue → Option Nat
  | .literal v => some v
  | .categoryName c => some c.code.toNat
  | .field l f => (answers.lookup l).map (fun r => r.read f)

/-- The request word of a line. A response field is zero-extended or truncated to its port, the low bits kept (R64).
DESIGN CHOICE, safe: a literal too wide for its port is cut to its low bits in the same way; R64 says so of response
fields only. Log entry 10. -/
def lineRequest (answers : Answers) (l : Line) : Option ReqWord :=
  match lineValue answers l.a, lineValue answers l.b, lineValue answers l.c, lineValue answers l.k with
  | some a, some b, some c, some k =>
    some (ReqPorts.toWord
      { op := l.mnemonic.code
        k := BitVec.ofNat 2 k
        a := BitVec.ofNat 64 a
        b := BitVec.ofNat 32 b
        c := BitVec.ofNat 32 c })
  | _, _, _, _ => none

/-- The host issues one line: it forms the request, presents it, lets FXQ answer, and keeps the response. None when
the request cannot be formed (R193). DESIGN CHOICE, safe; log entry 10. -/
def issueLine (l : Line) (answers : Answers) (s : State) : Option (Answers × State) :=
  match lineRequest answers l with
  | none => none
  | some w =>
    match step (s.present w) with
    | .next t => t.rsp.map (fun r => ((l.label, r) :: answers, t))
    | .fault _ => none
    | .refused _ => none

/-- The host issues the lines of a program in order (R64, 70_reset_and_hazards.md R200). -/
def issueProgram : List Line → Answers → State → Option (Answers × State)
  | [], answers, s => some (answers, s)
  | l :: ls, answers, s =>
    match issueLine l answers s with
    | none => none
    | some (answers', t) => issueProgram ls answers' t

/-! ### Pseudo-operations (R65): `l` labels the result, `l1` and `l2` the helper lines -/

/-- `l: INSPECT a=X`. -/
def inspect (l1 l : Nat) (x : LineValue) : List Line :=
  [{ label := l1, mnemonic := .decomp, a := x },
   { label := l, mnemonic := .decode, a := .field l1 .y, b := .field l1 .y1, c := .field l1 .y2 }]

/-- `l: ROUNDTRIP a=X`: the pipeline of R60. -/
def roundTrip (l1 l2 l : Nat) (x : LineValue) : List Line :=
  [{ label := l1, mnemonic := .decomp, a := x },
   { label := l2, mnemonic := .decode, a := .field l1 .y, b := .field l1 .y1, c := .field l1 .y2 },
   { label := l, mnemonic := .recon, a := .field l2 .y, b := .field l2 .y1, c := .field l2 .y2,
     k := .field l2 .cat }]

/-- `l: Q7RTS a=X`. -/
def q7RoundTripSingle (l1 l : Nat) (x : LineValue) : List Line :=
  [{ label := l1, mnemonic := .q7fs, a := x }, { label := l, mnemonic := .q7ts, a := .field l1 .y }]

/-- `l: Q7RTD a=X`. -/
def q7RoundTripDouble (l1 l : Nat) (x : LineValue) : List Line :=
  [{ label := l1, mnemonic := .q7fd, a := x }, { label := l, mnemonic := .q7td, a := .field l1 .y }]

end Sys2Proof.Machine
end

