-- ==== Sys2Proof/Machine/Values.lean ====
section
/-! DEFINITION. The exact numbers the patterns stand for, as rationals (spec/40_float_formats_and_arith.md R71, R75,
R76; 44_q7_codec.md R140). No operation computes with them; statements compare the operations with them. -/

namespace Sys2Proof.Machine

/-- The real `(-1)^s * m * 2^e` that `round32(s, m, e)` rounds (00_scope.md R9). -/
def dyadic (s : BitVec 1) (m : Nat) (e : Int) : ℚ := (if s = 1#1 then -1 else 1) * (m : ℚ) * (2 : ℚ) ^ e

/-- `val32(p)` of a finite binary32 pattern, in the integer form of R71. -/
def val32 (p : Pat32) : ℚ := dyadic (sign32 p) (mag32 p) (ulp32 p)

/-- `val64(p)` of a finite 64-bit pattern, in the integer form of R75. -/
def val64 (p : Pat64) : ℚ := dyadic (sign64 p) (mag64 p) (ulp64 p)

/-- `valQ7(q)`: the stored integer times `2^-7` (R76). -/
def valQ7 (q : Byte) : ℚ := (q7Int q : ℚ) / 128

/-- `trunc(r)`: the integer part toward zero (00_scope.md R9). -/
def truncQ (r : ℚ) : Int := if 0 ≤ r then ⌊r⌋ else ⌈r⌉

/-- `quant(v)` on a finite real, word for word (R140). -/
def quantQ (v : ℚ) : Int := if 1 ≤ v then 127 else if v ≤ -1 then -128 else truncQ (v * 128)

end Sys2Proof.Machine
end

