-- ==== Sys2Proof/Safety.lean ====
section
/-! DEFINITION. What counts as a safe run of FXQ, and the terms the statements use. -/

namespace Sys2Proof

open Sys2Proof.Machine

/-- A transaction has exactly one outcome, a response: neither a fault nor a refusal (spec/60_exceptions.md R170). -/
def Answered (o : Host.Outcome State Fault Refusal) : Prop := ∃ t, o = .next t

/-- The bits `hi` down to `lo` of a request word. -/
def reqBits (hi lo : Nat) : ReqWord := BitVec.ofNat 133 ((2 ^ (hi - lo + 1) - 1) <<< lo)

/-- The bits `hi` down to `lo` of a response word. -/
def rspBits (hi lo : Nat) : RspWord := BitVec.ofNat 139 ((2 ^ (hi - lo + 1) - 1) <<< lo)

/-- The request bits each operation names: `op` and its operands, as spec/opcode_table.json numbers them (R51 to
R58). -/
def namedRequestBits : Op → ReqWord
  | .decomp => reqBits 2 0 ||| reqBits 36 5
  | .decode => reqBits 2 0 ||| reqBits 5 5 ||| reqBits 76 69 ||| reqBits 123 101
  | .recon => reqBits 2 0 ||| reqBits 4 3 ||| reqBits 36 5 ||| reqBits 100 69 ||| reqBits 132 101
  | .q7fs => reqBits 2 0 ||| reqBits 36 5
  | .q7fd => reqBits 2 0 ||| reqBits 68 5
  | .q7ts => reqBits 2 0 ||| reqBits 12 5
  | .q7td => reqBits 2 0 ||| reqBits 12 5
  | .unitb => reqBits 2 0 ||| reqBits 12 5

/-- The response bits each operation sets, as spec/opcode_table.json numbers them (R51 to R58). -/
def resultBits : Op → RspWord
  | .decomp => rspBits 0 0 ||| rspBits 71 64 ||| rspBits 118 96
  | .decode => rspBits 31 0 ||| rspBits 95 64 ||| rspBits 127 96 ||| rspBits 129 128 ||| rspBits 138 130
  | .recon => rspBits 31 0
  | .q7fs => rspBits 7 0
  | .q7fd => rspBits 7 0
  | .q7ts => rspBits 31 0
  | .q7td => rspBits 63 0
  | .unitb => rspBits 31 0

/-- The low 32 bits of port `y`, where a binary32 result stands (R49). -/
def Machine.Rsp.yLow (r : Rsp) : Pat32 := r.y.extractLsb' 0 32

/-- The request of DECODE the pipeline forms from a response of DECOMP (30_encoding.md R60). -/
def chainDecode (r : Rsp) : ReqWord :=
  ReqPorts.toWord { op := 1, k := 0, a := r.yLow.setWidth 64, b := r.y1, c := r.y2 }

/-- The request of RECON the pipeline forms from a response of DECODE and a category (30_encoding.md R60: the
category is the response's own; 43_reconstructor.md R137 is about others). -/
def chainRecon (r : Rsp) (k : BitVec 2) : ReqWord :=
  ReqPorts.toWord { op := 2, k := k, a := r.yLow.setWidth 64, b := r.y1, c := r.y2 }

/-- A response whose numbers are raw fields (R51). -/
def RawFields (r : Rsp) : Prop :=
  r.y.toNat ≤ 1 ∧ r.y1.toNat ≤ 255 ∧ r.y2.toNat < 2 ^ 23 ∧ r.cat = 0#2 ∧ r.eu = 0#9

/-- A finite pattern of sign 0 whose value is `F / 2^23`: the mantissa value without an implicit one (R119, R120). -/
def IsFractionValue (F : BitVec 23) (p : Pat32) : Prop :=
  sign32 p = 0#1 ∧ isFinite32 p = true ∧ val32 p = (F.toNat : ℚ) / 2 ^ 23

/-- A response whose numbers are decoded fields: a unit multiplier, and an exponent value, a mantissa value and an
effective exponent that agree with the category (R111 to R120). -/
def DecodedFields (r : Rsp) : Prop :=
  (r.y = 0x3F800000#64 ∨ r.y = 0xBF800000#64) ∧
  ((r.cat = 0#2 ∧ -126 ≤ r.eu.toInt ∧ r.eu.toInt ≤ 127 ∧ (r.y1.toNat : Int) = (r.eu.toInt + 127) * 2 ^ 23 ∧
      0x3F800000#32 ≤ r.y2 ∧ r.y2 ≤ 0x3FFFFFFF#32) ∨
   (r.cat = 1#2 ∧ r.eu.toInt = -126 ∧ r.y1 = 0x00800000#32 ∧
      ∃ F : BitVec 23, IsFractionValue F r.y2) ∨
   ((r.cat = 2#2 ∨ r.cat = 3#2) ∧ r.eu.toInt = 128 ∧ r.y1 = 0#32 ∧ r.y2 = 0#32))

/-- A response with one result, on port `y`: a binary32 pattern or a narrower result, no NaN but the canonical one
(R49, R82), or the 64-bit float of a Q7 byte (R145). -/
def SingleResult (r : Rsp) : Prop :=
  r.y1 = 0#32 ∧ r.y2 = 0#32 ∧ r.cat = 0#2 ∧ r.eu = 0#9 ∧
  ((r.y.extractLsb' 32 32 = 0#32 ∧ (isNaN32 r.yLow = true → r.yLow = Config.qnan)) ∨ ∃ q : Byte, r.y = pat64OfQ7 q)

/-- The responses FXQ can give, told apart without their request. That these are all of them and no others is the
statement LegalResponsesAreTheResponses. -/
def LegalRsp (r : Rsp) : Prop := RawFields r ∨ DecodedFields r ∨ SingleResult r

/-- The invariant of the machine: whatever response stands on the ports is one FXQ can give. -/
def Inv (s : State) : Prop := ∀ r, s.rsp = some r → LegalRsp r

end Sys2Proof
end

