-- ==== Sys2Proof/Certificates/Slice0/Obligations.lean ====
section
/-! DEFINITION. The statements about FXQ, each from numbered rules of spec/. A statement that gives a next state writes
it with the model's two ports: the request taken, the response standing in the state its own step gives. That form is the
model's (log entry 1); the response in it is the rules'. -/

open Sys2Proof Sys2Proof.Machine

/-! ### Words and decoding -/

/-- R45: the request word is the concatenation of the request ports, each at its tabulated place. -/
def Obligations.RequestWordIsPortConcatenation : Prop :=
  ∀ p : ReqPorts, p.toWord = p.c ++ p.b ++ p.a ++ p.k ++ p.op ∧
    p.toWord.extractLsb' 0 3 = p.op ∧ p.toWord.extractLsb' 3 2 = p.k ∧ p.toWord.extractLsb' 5 64 = p.a ∧
    p.toWord.extractLsb' 69 32 = p.b ∧ p.toWord.extractLsb' 101 32 = p.c

/-- R47: the response word is the concatenation of the response ports, each at its tabulated place. -/
def Obligations.ResponseWordIsPortConcatenation : Prop :=
  ∀ r : Rsp, r.toWord = r.eu ++ r.cat ++ r.y2 ++ r.y1 ++ r.y ∧
    r.toWord.extractLsb' 0 64 = r.y ∧ r.toWord.extractLsb' 64 32 = r.y1 ∧ r.toWord.extractLsb' 96 32 = r.y2 ∧
    r.toWord.extractLsb' 128 2 = r.cat ∧ r.toWord.extractLsb' 130 9 = r.eu

/-- R50, R46: `REQ[2:0]` alone selects the operation, by the numbers of the operation map; all eight are assigned. -/
def Obligations.OperationCodeSelectsOperation : Prop :=
  ∀ w : ReqWord, (decode w).op.code = w.extractLsb' 0 3 ∧
    (w.extractLsb' 0 3 = 0#3 ↔ (decode w).op = .decomp) ∧ (w.extractLsb' 0 3 = 1#3 ↔ (decode w).op = .decode) ∧
    (w.extractLsb' 0 3 = 2#3 ↔ (decode w).op = .recon) ∧ (w.extractLsb' 0 3 = 3#3 ↔ (decode w).op = .q7fs) ∧
    (w.extractLsb' 0 3 = 4#3 ↔ (decode w).op = .q7fd) ∧ (w.extractLsb' 0 3 = 5#3 ↔ (decode w).op = .q7ts) ∧
    (w.extractLsb' 0 3 = 6#3 ↔ (decode w).op = .q7td) ∧ (w.extractLsb' 0 3 = 7#3 ↔ (decode w).op = .unitb)

/-- R48: two requests that agree on the bits their operation names decode to the same instruction and have the same
response, whatever their other bits hold. -/
def Obligations.IgnoredRequestBitsChangeNothing : Prop :=
  ∀ w w' : ReqWord, w &&& namedRequestBits (decode w).op = w' &&& namedRequestBits (decode w).op →
    decode w = decode w' ∧ fxq w = fxq w'

/-- R49: every response bit outside the ones the operation's rule sets is 0. -/
def Obligations.UnsetResponseBitsAreZero : Prop :=
  ∀ w : ReqWord, (fxq w).toWord &&& ~~~ resultBits (decode w).op = 0

/-- Every instruction is well-formed (R62), and decoding its canonical word (R45, R51 to R58) gives it back, with
every operand at every value. -/
def Obligations.DecodeOfEncodeIsIdentity : Prop :=
  ∀ i : Instr, WellFormed i = true ∧ decode (encode i) = i

/-- R59: the category codes, both ways, and which raw fields DECODE maps to each. -/
def Obligations.CategoryCodes : Prop :=
  (Category.normal.code = 0#2 ∧ Category.subnormal.code = 1#2 ∧ Category.infinity.code = 2#2 ∧
    Category.nan.code = 3#2) ∧
  (∀ c : Category, Category.ofCode c.code = c) ∧ (∀ b : BitVec 2, (Category.ofCode b).code = b) ∧
  ∀ (S : BitVec 1) (E : BitVec 8) (F : BitVec 23),
    ((respond (.decode S E F)).cat = 0#2 ↔ 1 ≤ E.toNat ∧ E.toNat ≤ 254) ∧
    ((respond (.decode S E F)).cat = 1#2 ↔ E = 0#8) ∧
    ((respond (.decode S E F)).cat = 2#2 ↔ E = 255#8 ∧ F = 0#23) ∧
    ((respond (.decode S E F)).cat = 3#2 ↔ E = 255#8 ∧ F ≠ 0#23)

/-- Request words written out in 95_test_vectors.md (programs P1, P4, P5) hold the instructions they stand for: one
word of each family. -/
def Obligations.SpecWordsDecode : Prop :=
  decode 0x80921FB60#133 = .decomp 0x40490FDB#32 ∧
  decode 0x000921FB60000010000000000000000001#133 = .decode 0#1 0x80#8 0x490FDB#23 ∧
  decode 0x07F921FB680000000000000007F0000002#133 = .recon 0x3F800000#32 0x40000000#32 0x3FC90FDB#32 .normal ∧
  decode 0x7D3333343#133 = .q7fs 0x3E99999A#32 ∧
  decode 0x7FA60000000000004#133 = .q7fd 0x3FD3000000000000#64 ∧
  decode 0x4C5#133 = .q7ts 0x26#8 ∧ decode 0x4C6#133 = .q7td 0x26#8 ∧ decode 0x1907#133 = .unitb 0xC8#8

/-! ### Steps -/

/-- R170, R8, R200: no fault and no refusal: every operation in every state answers a next state, and the request that
stands when a step is taken is answered with `fxq` of it. The state `s` may hold a request already: that the one presented
then replaces it, so that the earlier one gets no response, is THE MODEL'S CHOICE of log entry 13, and that the request
port is empty after the answer is log entry 1. So this does not say that every request ever presented is answered. -/
def Obligations.EveryStandingRequestIsAnswered : Prop :=
  (∀ (i : Instr) (s : State), Answered (exec i s)) ∧
  ∀ (s : State) (w : ReqWord), step (s.present w) = .next { req := none, rsp := some (fxq w) }

/-- A step runs the decoded instruction (R8, R46): with the word `w` presented, `step` is `exec` of `decode w`, and
nothing is added around it. -/
def Obligations.StepRunsDecodedInstruction : Prop :=
  ∀ (s : State) (w : ReqWord), s.req = some w → step s = exec (decode w) s

/-- R10, R12, R19: FXQ holds the unit type, and nothing holds a response between transactions. Four clauses: any two
states hold the same; presenting a request leaves no response; presenting a request in any two states gives the same
state, so nothing of what stood on the ports is left, an unanswered request among it (THE MODEL'S CHOICES of log entries 1
and 13); and a step with no request leaves neither a request nor a response (THE MODEL'S CHOICE of log entry 2). -/
def Obligations.NothingIsHeldBetweenTransactions : Prop :=
  (∀ s t : State, s.held = t.held) ∧ (∀ (s : State) (w : ReqWord), (s.present w).rsp = none) ∧
  (∀ (s t : State) (w : ReqWord), s.present w = t.present w) ∧
  ∀ s : State, s.req = none → step s = .next { req := none, rsp := none }

/-- R38: the response depends on the request's bits alone: two states with the same request presented, whatever
response stands on their ports from before, step to the same state. -/
def Obligations.ResponseDependsOnRequestAlone : Prop :=
  ∀ (s t : State) (w : ReqWord), s.req = some w → t.req = some w → step s = step t

/-- R37: a request presented again gets the same response and changes nothing. (Presenting replaces what stood on the
ports: log entries 1 and 13.) -/
def Obligations.RepeatedRequestIsIdempotent : Prop :=
  ∀ (s t : State) (w : ReqWord), step (s.present w) = .next t → step (t.present w) = .next t

/-- R19, R190, R191: after reset no request stands and no response exists (that the model writes this as two absent
ports is log entry 1), and the first request is answered as it would be in any other state (one with a request standing
already among them, which is then replaced: log entry 13). -/
def Obligations.ResetHoldsNothing : Prop :=
  State.reset.req = none ∧ State.reset.rsp = none ∧
  ∀ (s : State) (w : ReqWord), step (State.reset.present w) = step (s.present w)

/-- Every step keeps `Inv`: a response on the ports is raw fields, decoded fields that agree with their category, or a
single result: a 32-bit one that is no NaN but the canonical one, or the 64-bit float of a Q7 byte (R49, R51, R82, R111
to R120, R145). That a response stands in State, and the step with no request, are the model's choices: log entries 1
and 2. -/
def Obligations.StepKeepsLegalResponse : Prop :=
  ∀ s t : State, Inv s → step s = .next t → Inv t

/-- The responses that `Inv` allows are exactly the ones FXQ gives: every legal response answers some request, and
every answer is legal. -/
def Obligations.LegalResponsesAreTheResponses : Prop :=
  ∀ r : Rsp, LegalRsp r ↔ ∃ w : ReqWord, fxq w = r

/-- `Inv` holds after reset, because no response stands there: that the model writes "no response exists" (R19, R190) as
an absent port is THE MODEL'S CHOICE of log entry 1. -/
def Obligations.ResetHasLegalResponse : Prop := Inv State.reset

/-! ### Formats -/

/-- R72: the class predicates by the fields; each pattern is in exactly one of the five classes NaN, infinity, zero,
subnormal, normal. -/
def Obligations.ClassesPartitionPatterns : Prop :=
  ∀ p : Pat32,
    (isNaN32 p = true ↔ p.extractLsb' 23 8 = 255#8 ∧ p.extractLsb' 0 23 ≠ 0#23) ∧
    (isInf32 p = true ↔ p.extractLsb' 23 8 = 255#8 ∧ p.extractLsb' 0 23 = 0#23) ∧
    (isZero32 p = true ↔ p.extractLsb' 23 8 = 0#8 ∧ p.extractLsb' 0 23 = 0#23) ∧
    (isSub32 p = true ↔ p.extractLsb' 23 8 = 0#8 ∧ p.extractLsb' 0 23 ≠ 0#23) ∧
    (isNormal32 p = true ↔ 1 ≤ (p.extractLsb' 23 8).toNat ∧ (p.extractLsb' 23 8).toNat ≤ 254) ∧
    (isFinite32 p = true ↔ p.extractLsb' 23 8 ≠ 255#8) ∧
    [isNaN32 p, isInf32 p, isZero32 p, isSub32 p, isNormal32 p].count true = 1

/-- R71: the value of a finite binary32 pattern, in the form with `1.f` or `0.f`; the two zeros have value 0 and no
other finite pattern has. -/
def Obligations.Binary32Value : Prop :=
  ∀ p : Pat32, isFinite32 p = true →
    val32 p = (if p.getLsbD 31 then -1 else 1) *
      (if p.extractLsb' 23 8 = 0#8 then (2 : ℚ) ^ (-126 : Int) * (((p.extractLsb' 0 23).toNat : ℚ) / 2 ^ 23)
       else (2 : ℚ) ^ (((p.extractLsb' 23 8).toNat : Int) - 127) * (1 + ((p.extractLsb' 0 23).toNat : ℚ) / 2 ^ 23)) ∧
    (val32 p = 0 ↔ p = 0x00000000#32 ∨ p = 0x80000000#32)

/-- R73: the named patterns have their values, and `2^k` is `(k+127) << 23`. -/
def Obligations.ConstantPatternsHaveTheirValues : Prop :=
  val32 0x00000000#32 = 0 ∧ val32 0x80000000#32 = 0 ∧ sign32 0x80000000#32 = 1#1 ∧ val32 0x3F800000#32 = 1 ∧
  val32 0xBF800000#32 = -1 ∧ val32 Config.unitBase = 1 / 2 ∧ val32 0x40000000#32 = 2 ∧
  val32 0x00800000#32 = (2 : ℚ) ^ (-126 : Int) ∧ val32 0x00000001#32 = (2 : ℚ) ^ (-149 : Int) ∧
  val32 0x7F7FFFFF#32 = (2 - 1 / 2 ^ 23) * 2 ^ 127 ∧
  (∀ p : Pat32, isFinite32 p = true → val32 p ≤ val32 0x7F7FFFFF#32) ∧
  isInf32 0x7F800000#32 = true ∧ sign32 0x7F800000#32 = 0#1 ∧ isInf32 0xFF800000#32 = true ∧
  sign32 0xFF800000#32 = 1#1 ∧ isNaN32 Config.qnan = true ∧ Config.qnan = pack32 0#1 255#8 0x400000#23 ∧
  ∀ k : Int, -126 ≤ k → k ≤ 127 →
    isFinite32 (BitVec.ofInt 32 (k + 127) <<< 23) = true ∧ val32 (BitVec.ofInt 32 (k + 127) <<< 23) = (2 : ℚ) ^ k

/-- R75: the value of a finite 64-bit pattern, and its NaN and infinity classes. -/
def Obligations.Binary64Value : Prop :=
  ∀ p : Pat64,
    (isNaN64 p = true ↔ p.extractLsb' 52 11 = 2047#11 ∧ p.extractLsb' 0 52 ≠ 0#52) ∧
    (isInf64 p = true ↔ p.extractLsb' 52 11 = 2047#11 ∧ p.extractLsb' 0 52 = 0#52) ∧
    (p.extractLsb' 52 11 ≠ 2047#11 →
      val64 p = (if p.getLsbD 63 then -1 else 1) *
        (if p.extractLsb' 52 11 = 0#11 then (2 : ℚ) ^ (-1022 : Int) * (((p.extractLsb' 0 52).toNat : ℚ) / 2 ^ 52)
         else (2 : ℚ) ^ (((p.extractLsb' 52 11).toNat : Int) - 1023) * (1 + ((p.extractLsb' 0 52).toNat : ℚ) / 2 ^ 52)))

/-- R77: widening keeps the value and the sign of every finite pattern, keeps an infinity an infinity of the same
sign, and keeps a NaN a NaN (whatever the free fraction `Config.widenNaNFraction` is). -/
def Obligations.WideningIsExact : Prop :=
  ∀ p : Pat32, sign64 (widen p) = sign32 p ∧
    (isFinite32 p = true → exp64 (widen p) ≠ 2047#11 ∧ val64 (widen p) = val32 p) ∧
    (isInf32 p = true ↔ isInf64 (widen p) = true) ∧ (isNaN32 p = true ↔ isNaN64 (widen p) = true)

/-! ### Arithmetic -/

/-- R78: a finite result of `round32` is as near to the exact value as any finite binary32 value. -/
def Obligations.RoundingIsToNearest : Prop :=
  ∀ (s : BitVec 1) (m : Nat) (e : Int) (x : Pat32), isFinite32 (round32 s m e) = true → isFinite32 x = true →
    |val32 (round32 s m e) - dyadic s m e| ≤ |val32 x - dyadic s m e|

/-- R78: where another finite value is as near as the result, the result is the one with the even significand. -/
def Obligations.RoundingTiesGoToEven : Prop :=
  ∀ (s : BitVec 1) (m : Nat) (e : Int) (x : Pat32), isFinite32 (round32 s m e) = true → isFinite32 x = true →
    val32 x ≠ val32 (round32 s m e) →
    |val32 x - dyadic s m e| = |val32 (round32 s m e) - dyadic s m e| →
    (round32 s m e).getLsbD 0 = false

/-- R78: `round32` never gives a NaN, keeps the sign, and gives the infinity of that sign exactly when the magnitude
is at least half a unit above the largest finite value, that is when it rounds to `2^128` or more. -/
def Obligations.RoundingOverflowsToInfinity : Prop :=
  ∀ (s : BitVec 1) (m : Nat) (e : Int), isNaN32 (round32 s m e) = false ∧ sign32 (round32 s m e) = s ∧
    (isInf32 (round32 s m e) = true ↔ ((2 ^ 25 - 1 : Nat) : ℚ) * (2 : ℚ) ^ (103 : Int) ≤ (m : ℚ) * (2 : ℚ) ^ e)

/-- R79: multiplication case by case, in the rule's order; the finite case is the exact product, an integer below
`2^48` times a power of two, rounded once. -/
def Obligations.MultiplicationByCases : Prop :=
  ∀ p q : Pat32,
    (isNaN32 p = true ∨ isNaN32 q = true → fmul32 p q = 0x7FC00000#32) ∧
    (isNaN32 p = false → isNaN32 q = false → isInf32 p = true ∨ isInf32 q = true →
      (isZero32 p = true ∨ isZero32 q = true → fmul32 p q = 0x7FC00000#32) ∧
      (isZero32 p = false → isZero32 q = false → fmul32 p q = pack32 (sign32 p ^^^ sign32 q) 255#8 0#23)) ∧
    (isFinite32 p = true → isFinite32 q = true →
      fmul32 p q = round32 (sign32 p ^^^ sign32 q) (mag32 p * mag32 q) (ulp32 p + ulp32 q) ∧
      mag32 p * mag32 q < 2 ^ 48 ∧
      dyadic (sign32 p ^^^ sign32 q) (mag32 p * mag32 q) (ulp32 p + ulp32 q) = val32 p * val32 q)

/-- R82: a NaN that comes out of a multiplication or of RECON is the canonical one, whatever went in. -/
def Obligations.OnlyCanonicalNaNComesOut : Prop :=
  (∀ p q : Pat32, isNaN32 (fmul32 p q) = true → fmul32 p q = 0x7FC00000#32) ∧
  ∀ (A B C : Pat32) (K : Category),
    isNaN32 (respond (.recon A B C K)).yLow = true → (respond (.recon A B C K)).yLow = 0x7FC00000#32

/-- R80: addition of finite patterns returns the exact sum whenever some finite pattern has it as its value and it is
not zero; an exact zero sum is `+0.0` unless both operands are negative. -/
def Obligations.AdditionIsExactWhereRepresentable : Prop :=
  ∀ p q : Pat32, isFinite32 p = true → isFinite32 q = true →
    (∀ r : Pat32, isFinite32 r = true → val32 r = val32 p + val32 q → val32 r ≠ 0 → fadd32 p q = r) ∧
    (val32 p + val32 q = 0 →
      fadd32 p q = if sign32 p = 1#1 ∧ sign32 q = 1#1 then 0x80000000#32 else 0x00000000#32)

/-- R81: subtraction is addition of the operand with bit 31 inverted, and a finite pattern less itself is `+0.0`. -/
def Obligations.SubtractionIsAdditionOfNegation : Prop :=
  (∀ p q : Pat32, fsub32 p q = fadd32 p (q ^^^ 0x80000000#32)) ∧
  ∀ p : Pat32, isFinite32 p = true → fsub32 p p = 0x00000000#32

/-! ### DECOMP -/

/-- R100: DECOMP completes in every state with the three raw fields. -/
def Obligations.DecompResult : Prop :=
  ∀ (p : Pat32) (s : State), exec (.decomp p) s = .next
    { req := none
      rsp := some
        { y := BitVec.ofNat 64 (p.toNat >>> 31)
          y1 := BitVec.ofNat 32 ((p.toNat >>> 23) &&& 0xFF)
          y2 := BitVec.ofNat 32 (p.toNat &&& 0x007FFFFF)
          cat := 0#2
          eu := 0#9 } }

/-- R101: the three fields of DECOMP, concatenated, are the pattern; and DECOMP is a bijection between the patterns
and the triples. -/
def Obligations.DecompFieldsReproducePattern : Prop :=
  (∀ p : Pat32, let r := respond (.decomp p)
    r.y.extractLsb' 0 1 ++ r.y1.extractLsb' 0 8 ++ r.y2.extractLsb' 0 23 = p ∧
    r.y.toNat * 2 ^ 31 + r.y1.toNat * 2 ^ 23 + r.y2.toNat = p.toNat) ∧
  Function.Bijective (fun p : Pat32 => let r := respond (.decomp p)
    ((r.y.extractLsb' 0 1, r.y1.extractLsb' 0 8, r.y2.extractLsb' 0 23) : BitVec 1 × BitVec 8 × BitVec 23))

/-! ### DECODE -/

/-- R110 with R111, R112, R114, R115: DECODE completes in every state; multiplier, exponent value, category and
effective exponent are those of the rules, and the mantissa value is the accumulate loop's for `E ≠ 255`. -/
def Obligations.DecodeResult : Prop :=
  ∀ (S : BitVec 1) (E : BitVec 8) (F : BitVec 23) (s : State), exec (.decode S E F) s = .next
    { req := none
      rsp := some
        { y := if S = 0#1 then 0x3F800000#64 else 0xBF800000#64
          y1 := if E = 255#8 then 0x00000000#32
                else if E = 0#8 then 0x00800000#32 else E.setWidth 32 <<< 23
          y2 := if E = 255#8 then 0x00000000#32
                else (List.range 23).foldl
                  (fun acc i => if F.getLsbD i then fadd32 acc (BitVec.ofNat 32 ((104 + i) <<< 23)) else acc)
                  (if E = 0#8 then 0x00000000#32 else 0x3F800000#32)
          cat := if E = 255#8 then (if F = 0#23 then 2#2 else 3#2) else if E = 0#8 then 1#2 else 0#2
          eu := BitVec.ofInt 9 (if E = 0#8 then -126 else (E.toNat : Int) - 127) } }

/-- R114: the effective exponent as a signed integer, for every raw exponent. -/
def Obligations.BiasRemoverNeverWraps : Prop :=
  (∀ (S : BitVec 1) (E : BitVec 8) (F : BitVec 23),
    (respond (.decode S E F)).eu.toInt = (if E = 0#8 then -126 else (E.toNat : Int) - 127) ∧
    -126 ≤ (respond (.decode S E F)).eu.toInt ∧ (respond (.decode S E F)).eu.toInt ≤ 128) ∧
  (respond (.decode 0#1 0#8 0#23)).eu = 0x182#9 ∧ (respond (.decode 0#1 126#8 0#23)).eu = 0x1FF#9 ∧
  (respond (.decode 0#1 127#8 0#23)).eu = 0x000#9 ∧ (respond (.decode 0#1 254#8 0#23)).eu = 0x07F#9 ∧
  (respond (.decode 0#1 255#8 0#23)).eu = 0x080#9

/-- R115 and conflict C4: where the category is NORMAL or SUBNORMAL, the exponent value is 2 raised to the effective
exponent. -/
def Obligations.ExponentValueIsPowerOfEffectiveExponent : Prop :=
  ∀ (S : BitVec 1) (E : BitVec 8) (F : BitVec 23), E ≠ 255#8 →
    isFinite32 (respond (.decode S E F)).y1 = true ∧
    val32 (respond (.decode S E F)).y1 = (2 : ℚ) ^ (respond (.decode S E F)).eu.toInt

/-- R116: on the special path both numbers are `+0.0`, the multiplier keeps the sign, `eu` is 128, and the category is
reported. -/
def Obligations.SpecialPathGivesZeros : Prop :=
  ∀ (S : BitVec 1) (F : BitVec 23) (s : State), exec (.decode S 255#8 F) s = .next
    { req := none
      rsp := some
        { y := if S = 0#1 then 0x3F800000#64 else 0xBF800000#64
          y1 := 0x00000000#32
          y2 := 0x00000000#32
          cat := if F = 0#23 then 2#2 else 3#2
          eu := 0x080#9 } }

/-- R119: the accumulate loop has the closed form of a leading-one detector and a left shift. -/
def Obligations.MantissaLoopHasClosedForm : Prop :=
  ∀ (E : BitVec 8) (F : BitVec 23), E ≠ 255#8 →
    mantValue E F =
      if E = 0#8 then
        if F = 0#23 then 0x00000000#32
        else pack32 0#1 (BitVec.ofNat 8 (104 + msb F.toNat))
          (BitVec.ofNat 23 ((F.toNat - 2 ^ msb F.toNat) <<< (23 - msb F.toNat)))
      else 0x3F800000#32 ||| F.setWidth 32

/-- R119: after the step for bit `i` the accumulator is exactly `acc0 + (F mod 2^(i+1)) / 2^23`. -/
def Obligations.MantissaPartialSumsAreExact : Prop :=
  ∀ (E : BitVec 8) (F : BitVec 23) (i : Nat), E ≠ 255#8 → i < 23 →
    let acc := (List.range (i + 1)).foldl (accumulate F) (initialAcc E)
    isFinite32 acc = true ∧
    val32 acc = (if E = 0#8 then 0 else 1) + ((F.toNat % 2 ^ (i + 1) : Nat) : ℚ) / 2 ^ 23

/-- R119: the order of the additions does not change the result. -/
def Obligations.MantissaOrderDoesNotMatter : Prop :=
  ∀ (E : BitVec 8) (F : BitVec 23) (order : List Nat), E ≠ 255#8 → order.Perm (List.range 23) →
    order.foldl (accumulate F) (initialAcc E) = mantValue E F

/-- R120: the ranges of the mantissa value, as patterns and as numbers, and that it depends on the raw exponent only
through its category class and never on the sign. -/
def Obligations.MantissaRange : Prop :=
  ∀ (S : BitVec 1) (E : BitVec 8) (F : BitVec 23), let y2 := (respond (.decode S E F)).y2
    (E ≠ 0#8 → E ≠ 255#8 → 0x3F800000#32 ≤ y2 ∧ y2 ≤ 0x3FFFFFFF#32 ∧ 1 ≤ val32 y2 ∧ val32 y2 < 2 ∧
      y2 = mantValue 1#8 F) ∧
    (E = 0#8 → (y2 = 0x00000000#32 ∨ (0x34000000#32 ≤ y2 ∧ y2 ≤ 0x3F7FFFFE#32)) ∧
      0 ≤ val32 y2 ∧ val32 y2 ≤ 1 - 1 / 2 ^ 23 ∧ y2 = mantValue 0#8 F) ∧
    (E = 255#8 → y2 = 0x00000000#32)

/-- R122: the three decoded numbers of a finite pattern multiply, as exact reals, to its value. -/
def Obligations.DecodedFactorsMultiplyToValue : Prop :=
  ∀ p : Pat32, isFinite32 p = true →
    let r := respond (.decode (sign32 p) (exp32 p) (frac32 p))
    val32 p = val32 r.yLow * val32 r.y1 * val32 r.y2

/-- R122: the table of decodes, one per corner, all sixteen rows. -/
def Obligations.DecodeWorkedResults : Prop :=
  respond (.decode 0#1 0x7F#8 0x000000#23) =
    ⟨0x3F800000#64, 0x3F800000#32, 0x3F800000#32, 0#2, 0x000#9⟩ ∧
  respond (.decode 1#1 0x7E#8 0x000000#23) =
    ⟨0xBF800000#64, 0x3F000000#32, 0x3F800000#32, 0#2, 0x1FF#9⟩ ∧
  respond (.decode 0#1 0x7E#8 0x400000#23) =
    ⟨0x3F800000#64, 0x3F000000#32, 0x3FC00000#32, 0#2, 0x1FF#9⟩ ∧
  respond (.decode 0#1 0x7C#8 0x200000#23) =
    ⟨0x3F800000#64, 0x3E000000#32, 0x3FA00000#32, 0#2, 0x1FD#9⟩ ∧
  respond (.decode 0#1 0x01#8 0x000000#23) =
    ⟨0x3F800000#64, 0x00800000#32, 0x3F800000#32, 0#2, 0x182#9⟩ ∧
  respond (.decode 0#1 0xFE#8 0x7FFFFF#23) =
    ⟨0x3F800000#64, 0x7F000000#32, 0x3FFFFFFF#32, 0#2, 0x07F#9⟩ ∧
  respond (.decode 0#1 0x00#8 0x000000#23) =
    ⟨0x3F800000#64, 0x00800000#32, 0x00000000#32, 1#2, 0x182#9⟩ ∧
  respond (.decode 1#1 0x00#8 0x000000#23) =
    ⟨0xBF800000#64, 0x00800000#32, 0x00000000#32, 1#2, 0x182#9⟩ ∧
  respond (.decode 1#1 0x00#8 0x000001#23) =
    ⟨0xBF800000#64, 0x00800000#32, 0x34000000#32, 1#2, 0x182#9⟩ ∧
  respond (.decode 0#1 0x00#8 0x000300#23) =
    ⟨0x3F800000#64, 0x00800000#32, 0x38C00000#32, 1#2, 0x182#9⟩ ∧
  respond (.decode 0#1 0x00#8 0x400000#23) =
    ⟨0x3F800000#64, 0x00800000#32, 0x3F000000#32, 1#2, 0x182#9⟩ ∧
  respond (.decode 0#1 0x00#8 0x7FFFFF#23) =
    ⟨0x3F800000#64, 0x00800000#32, 0x3F7FFFFE#32, 1#2, 0x182#9⟩ ∧
  respond (.decode 0#1 0xFF#8 0x000000#23) =
    ⟨0x3F800000#64, 0x00000000#32, 0x00000000#32, 2#2, 0x080#9⟩ ∧
  respond (.decode 1#1 0xFF#8 0x000000#23) =
    ⟨0xBF800000#64, 0x00000000#32, 0x00000000#32, 2#2, 0x080#9⟩ ∧
  respond (.decode 0#1 0xFF#8 0x000001#23) =
    ⟨0x3F800000#64, 0x00000000#32, 0x00000000#32, 3#2, 0x080#9⟩ ∧
  respond (.decode 1#1 0xFF#8 0x400000#23) =
    ⟨0xBF800000#64, 0x00000000#32, 0x00000000#32, 3#2, 0x080#9⟩

/-! ### RECON -/

/-- R130 with R131 to R134: RECON completes in every state; the category alone selects the path. -/
def Obligations.ReconResult : Prop :=
  ∀ (A B C : Pat32) (K : Category) (s : State), exec (.recon A B C K) s = .next
    { req := none
      rsp := some
        { y := BitVec.setWidth 64
            (if K = .nan then 0x7FC00000#32
             else if K = .infinity then (if A.getLsbD 31 then 0xFF800000#32 else 0x7F800000#32)
             else fmul32 (fmul32 A B) C)
          y1 := 0#32
          y2 := 0#32
          cat := 0#2
          eu := 0#9 } }

/-- R136: decompose, decode, reconstruct (the requests chained as in R60) returns every pattern that is not a NaN bit
for bit and turns every NaN into `0x7FC00000`; for finite patterns the other two association orders of the product
give the same. -/
def Obligations.RoundTripRecoversEveryNonNaN : Prop :=
  ∀ p : Pat32,
    let d := fxq (encode (.decomp p))
    let r := fxq (chainDecode d)
    let z := fxq (chainRecon r r.cat)
    (isNaN32 p = false → z.y = p.setWidth 64) ∧
    (isNaN32 p = true → z.y = 0x7FC00000#64) ∧
    (isFinite32 p = true →
      fmul32 r.yLow (fmul32 r.y1 r.y2) = p ∧ fmul32 (fmul32 r.yLow r.y2) r.y1 = p)

/-- R137: the decoded results of an infinity or a NaN, given to RECON with category NORMAL or SUBNORMAL, come back as
the zero of the sign. -/
def Obligations.DroppedCategoryGivesSignedZero : Prop :=
  ∀ (S : BitVec 1) (F : BitVec 23) (k : BitVec 2), k = 0#2 ∨ k = 1#2 →
    (fxq (chainRecon (respond (.decode S 255#8 F)) k)).y = if S = 0#1 then 0x00000000#64 else 0x80000000#64

/-- R138: the worked results of RECON, all seventeen rows, with the intermediate product where one is formed. -/
def Obligations.ReconWorkedResults : Prop :=
  fmul32 0x3F800000#32 0x7F000000#32 = 0x7F000000#32 ∧
  (respond (.recon 0x3F800000#32 0x7F000000#32 0x40000000#32 .normal)).y = 0x7F800000#64 ∧
  fmul32 0x3F800001#32 0x3F800001#32 = 0x3F800002#32 ∧
  (respond (.recon 0x3F800001#32 0x3F800001#32 0x3F800001#32 .normal)).y = 0x3F800003#64 ∧
  fmul32 0x3FFFFFFF#32 0x3FFFFFFF#32 = 0x407FFFFE#32 ∧
  (respond (.recon 0x3FFFFFFF#32 0x3FFFFFFF#32 0x3FFFFFFF#32 .normal)).y = 0x40FFFFFD#64 ∧
  fmul32 0x00800000#32 0x3F000000#32 = 0x00400000#32 ∧
  (respond (.recon 0x00800000#32 0x3F000000#32 0x3F800000#32 .normal)).y = 0x00400000#64 ∧
  fmul32 0x00800001#32 0x3F000000#32 = 0x00400000#32 ∧
  (respond (.recon 0x00800001#32 0x3F000000#32 0x3F800000#32 .normal)).y = 0x00400000#64 ∧
  fmul32 0x00800003#32 0x3F000000#32 = 0x00400002#32 ∧
  (respond (.recon 0x00800003#32 0x3F000000#32 0x3F800000#32 .normal)).y = 0x00400002#64 ∧
  fmul32 0x00000001#32 0x3F000000#32 = 0x00000000#32 ∧
  (respond (.recon 0x00000001#32 0x3F000000#32 0x3F800000#32 .normal)).y = 0x00000000#64 ∧
  fmul32 0x00000003#32 0x3F000000#32 = 0x00000002#32 ∧
  (respond (.recon 0x00000003#32 0x3F000000#32 0x3F800000#32 .normal)).y = 0x00000002#64 ∧
  fmul32 0x7FC00001#32 0x3F800000#32 = 0x7FC00000#32 ∧
  (respond (.recon 0x7FC00001#32 0x3F800000#32 0x3F800000#32 .normal)).y = 0x7FC00000#64 ∧
  fmul32 0x7F800000#32 0x00000000#32 = 0x7FC00000#32 ∧
  (respond (.recon 0x7F800000#32 0x00000000#32 0x3F800000#32 .normal)).y = 0x7FC00000#64 ∧
  fmul32 0x7F800000#32 0xBF800000#32 = 0xFF800000#32 ∧
  (respond (.recon 0x7F800000#32 0xBF800000#32 0x3F800000#32 .normal)).y = 0xFF800000#64 ∧
  fmul32 0x7F800000#32 0x3F800000#32 = 0x7F800000#32 ∧
  (respond (.recon 0x7F800000#32 0x3F800000#32 0x80000000#32 .normal)).y = 0x7FC00000#64 ∧
  fmul32 0x40400000#32 0x40000000#32 = 0x40C00000#32 ∧
  (respond (.recon 0x40400000#32 0x40000000#32 0x3F000000#32 .subnormal)).y = 0x40400000#64 ∧
  (respond (.recon 0x12345678#32 0x7F800000#32 0x00000000#32 .infinity)).y = 0x7F800000#64 ∧
  (respond (.recon 0x92345678#32 0xDEADBEEF#32 0x00000001#32 .infinity)).y = 0xFF800000#64 ∧
  (respond (.recon 0xBF800000#32 0x00000000#32 0x00000000#32 .nan)).y = 0x7FC00000#64 ∧
  fmul32 0xBF800000#32 0x00000000#32 = 0x80000000#32 ∧
  (respond (.recon 0xBF800000#32 0x00000000#32 0x00000000#32 .normal)).y = 0x80000000#64

/-! ### Q7 -/

/-- R141: Q7FS completes in every state with the Q7 byte that the quantizer of the 64-bit float gives for the widened
pattern, a NaN among them (whatever the free fraction `Config.widenNaNFraction` is). -/
def Obligations.Q7fsIsCoreOfWidened : Prop :=
  ∀ (p : Pat32) (s : State), exec (.q7fs p) s = .next
    { req := none
      rsp := some { y := (q7Core (widen p)).setWidth 64, y1 := 0#32, y2 := 0#32, cat := 0#2, eu := 0#9 } }

/-- R141, R140, R143: the byte of Q7FS from the value of its operand: NaN gives 0, an infinity the clamp of its sign, a
finite value `quant` of it. -/
def Obligations.Q7fsByValue : Prop :=
  ∀ (p : Pat32) (s : State), exec (.q7fs p) s = .next
    { req := none
      rsp := some
        { y := BitVec.setWidth 64
            (if isNaN32 p then 0x00#8
             else if isInf32 p then (if p.getLsbD 31 then 0x80#8 else 0x7F#8)
             else BitVec.ofInt 8 (quantQ (val32 p)))
          y1 := 0#32
          y2 := 0#32
          cat := 0#2
          eu := 0#9 } }

/-- R142, R140: the same for Q7FD and the 64-bit float; the third case of `quant` lies in `[-127, 127]` (C2). -/
def Obligations.Q7fdByValue : Prop :=
  (∀ (p : Pat64) (s : State), exec (.q7fd p) s = .next
    { req := none
      rsp := some
        { y := BitVec.setWidth 64
            (if isNaN64 p then 0x00#8
             else if isInf64 p then (if p.getLsbD 63 then 0x80#8 else 0x7F#8)
             else BitVec.ofInt 8 (quantQ (val64 p)))
          y1 := 0#32
          y2 := 0#32
          cat := 0#2
          eu := 0#9 } }) ∧
  ∀ v : ℚ, -1 < v → v < 1 → -127 ≤ quantQ v ∧ quantQ v ≤ 127

/-- R144: the bit-level form of both quantizers. -/
def Obligations.QuantizersBitLevel : Prop :=
  (∀ (p : Pat32), let S := p.getLsbD 31; let E := (p.extractLsb' 23 8).toNat; let F := (p.extractLsb' 0 23).toNat
    q7OfPat32 p =
      if E = 255 ∧ F ≠ 0 then 0x00#8
      else if 127 ≤ E then (if S then 0x80#8 else 0x7F#8)
      else if 120 ≤ E then
        BitVec.ofInt 8 (if S then -(((2 ^ 23 + F) >>> (143 - E) : Nat) : Int) else ((2 ^ 23 + F) >>> (143 - E) : Nat))
      else 0x00#8) ∧
  (∀ (p : Pat64), let S := p.getLsbD 63; let E := (p.extractLsb' 52 11).toNat; let F := (p.extractLsb' 0 52).toNat
    q7Core p =
      if E = 2047 ∧ F ≠ 0 then 0x00#8
      else if 1023 ≤ E then (if S then 0x80#8 else 0x7F#8)
      else if 1016 ≤ E then
        BitVec.ofInt 8 (if S then -(((2 ^ 52 + F) >>> (1068 - E) : Nat) : Int) else ((2 ^ 52 + F) >>> (1068 - E) : Nat))
      else 0x00#8)

/-- R148: saturation, in bits, at both widths; the byte `0x80` comes from saturation only, which no NaN is, and `0x7F`
comes from saturation of a pattern that is no NaN or from truncation of a value in `[127/128, 1)`. -/
def Obligations.QuantizersSaturate : Prop :=
  (∀ p : Pat32, let E := (p.extractLsb' 23 8).toNat
    (isNaN32 p = false → 127 ≤ E → q7OfPat32 p = if p.getLsbD 31 then 0x80#8 else 0x7F#8) ∧
    (q7OfPat32 p = 0x80#8 ↔ isNaN32 p = false ∧ p.getLsbD 31 = true ∧ 127 ≤ E) ∧
    (127 ≤ E → (q7OfPat32 p = 0x7F#8 ↔ isNaN32 p = false ∧ p.getLsbD 31 = false)) ∧
    (E < 127 → (q7OfPat32 p = 0x7F#8 ↔ 127 / 128 ≤ val32 p ∧ val32 p < 1))) ∧
  (∀ p : Pat64, let E := (p.extractLsb' 52 11).toNat
    (isNaN64 p = false → 1023 ≤ E → q7Core p = if p.getLsbD 63 then 0x80#8 else 0x7F#8) ∧
    (q7Core p = 0x80#8 ↔ isNaN64 p = false ∧ p.getLsbD 63 = true ∧ 1023 ≤ E) ∧
    (1023 ≤ E → (q7Core p = 0x7F#8 ↔ isNaN64 p = false ∧ p.getLsbD 63 = false)) ∧
    (E < 1023 → (q7Core p = 0x7F#8 ↔ 127 / 128 ≤ val64 p ∧ val64 p < 1)))

/-- R145: Q7TD completes in every state with the 64-bit float of the stored integer times `2^-7`; zero gives `+0.0`. -/
def Obligations.Q7tdResult : Prop :=
  (∀ (q : Byte) (s : State), exec (.q7td q) s = .next
    { req := none
      rsp := some
        { y := if q.toInt = 0 then 0x0000000000000000#64
               else pack64 (if q.toInt < 0 then 1#1 else 0#1) (BitVec.ofNat 11 (1016 + msb q.toInt.natAbs))
                 (BitVec.ofNat 52 ((q.toInt.natAbs - 2 ^ msb q.toInt.natAbs) <<< (52 - msb q.toInt.natAbs)))
          y1 := 0#32
          y2 := 0#32
          cat := 0#2
          eu := 0#9 } }) ∧
  ∀ q : Byte, val64 (respond (.q7td q)).y = valQ7 q

/-- R146: Q7TS completes in every state with the binary32 pattern of the stored integer times `2^-7`; zero gives
`+0.0`. -/
def Obligations.Q7tsResult : Prop :=
  (∀ (q : Byte) (s : State), exec (.q7ts q) s = .next
    { req := none
      rsp := some
        { y := BitVec.setWidth 64
            (if q.toInt = 0 then 0x00000000#32
             else pack32 (if q.toInt < 0 then 1#1 else 0#1) (BitVec.ofNat 8 (120 + msb q.toInt.natAbs))
               (BitVec.ofNat 23 ((q.toInt.natAbs - 2 ^ msb q.toInt.natAbs) <<< (23 - msb q.toInt.natAbs))))
          y1 := 0#32
          y2 := 0#32
          cat := 0#2
          eu := 0#9 } }) ∧
  ∀ q : Byte, val32 (respond (.q7ts q)).yLow = valQ7 q

/-- R76, R145 to R147: both dequantizers give exactly `v / 128`, never `-0.0`, and the binary32 result is the 64-bit
result narrowed without rounding. -/
def Obligations.DequantizersAreExact : Prop :=
  ∀ q : Byte, let d := (respond (.q7td q)).y; let f := (respond (.q7ts q)).yLow
    (respond (.q7ts q)).y = f.setWidth 64 ∧
    isFinite32 f = true ∧ val32 f = valQ7 q ∧ exp64 d ≠ 2047#11 ∧ val64 d = valQ7 q ∧
    (q = 0x00#8 → d = 0x0000000000000000#64 ∧ f = 0x00000000#32) ∧ d ≠ 0x8000000000000000#64 ∧ f ≠ 0x80000000#32 ∧
    (q ≠ 0x00#8 → (exp32 f).toNat + 896 = (exp64 d).toNat ∧ (frac32 f).toNat <<< 29 = (frac64 d).toNat) ∧
    sign32 f = sign64 d

/-- R149 (i): dequantize then quantize is the identity on all bytes, at both widths. -/
def Obligations.DequantizeThenQuantizeIsIdentity : Prop :=
  ∀ q : Byte,
    (respond (.q7fs (respond (.q7ts q)).yLow)).y = q.setWidth 64 ∧
    (respond (.q7fd (respond (.q7td q)).y)).y = q.setWidth 64

/-- R149 (ii) to (iv): quantize then dequantize returns a multiple of `2^-7` in range bit for bit (`-0.0` comes back as
`+0.0`), any other value of magnitude below 1 as the multiple next to it on the side of zero, and `+1.0` as
`0.9921875`. -/
def Obligations.QuantizeThenDequantizeTruncates : Prop :=
  let back := fun p : Pat32 => (respond (.q7ts (BitVec.extractLsb' 0 8 (respond (.q7fs p)).y))).yLow
  (∀ (p : Pat32) (i : Int), isFinite32 p = true → -128 ≤ i → i ≤ 127 → val32 p = (i : ℚ) / 128 →
    back p = if i = 0 then 0x00000000#32 else p) ∧
  (∀ p : Pat32, isFinite32 p = true → |val32 p| < 1 →
    |val32 (back p)| ≤ |val32 p| ∧ |val32 p| - |val32 (back p)| < 1 / 2 ^ 7 ∧ 0 ≤ val32 (back p) * val32 p) ∧
  back 0x3F800000#32 = 0x3F7E0000#32

/-! ### UNITB -/

/-- R160: UNITB completes in every state with the five steps of the rule. -/
def Obligations.UnitbResult : Prop :=
  ∀ (B : Byte) (s : State), exec (.unitb B) s = .next
    { req := none
      rsp := some
        { y := BitVec.setWidth 64
            (fmul32 0x40000000#32 (fsub32 (0x3F000000#32 ||| (B.setWidth 32 <<< 15)) 0x3F000000#32))
          y1 := 0#32
          y2 := 0#32
          cat := 0#2
          eu := 0#9 } }

/-- R162: every step of UNITB is exact, its value is `B / 256`, and it has the closed form. -/
def Obligations.UnitbIsByteOver256 : Prop :=
  ∀ B : Byte, let pat := 0x3F000000#32 ||| (B.setWidth 32 <<< 15); let r := (respond (.unitb B)).yLow
    (respond (.unitb B)).y = r.setWidth 64 ∧
    val32 pat = 1 / 2 + (B.toNat : ℚ) / 512 ∧ val32 (fsub32 pat 0x3F000000#32) = (B.toNat : ℚ) / 512 ∧
    val32 r = (B.toNat : ℚ) / 256 ∧
    r = if B = 0#8 then 0x00000000#32
        else pack32 0#1 (BitVec.ofNat 8 (119 + msb B.toNat))
          (BitVec.ofNat 23 ((B.toNat - 2 ^ msb B.toNat) <<< (23 - msb B.toNat)))

/-- R163: the results of UNITB are `B / 256`, strictly increase in the byte, as patterns and as values, stay in
`[0, 0.99609375]`, and are never negative, `-0.0` or subnormal. -/
def Obligations.UnitbIsStrictlyIncreasing : Prop :=
  (∀ B C : Byte, B < C →
    (respond (.unitb B)).y < (respond (.unitb C)).y ∧
    val32 (respond (.unitb B)).yLow < val32 (respond (.unitb C)).yLow) ∧
  ∀ B : Byte, let r := (respond (.unitb B)).yLow
    val32 r = (B.toNat : ℚ) / 256 ∧ 0 ≤ val32 r ∧ val32 r ≤ 255 / 256 ∧ sign32 r = 0#1 ∧ isSub32 r = false ∧ (B ≠ 0#8 → 0x3B800000#32 ≤ r)

/-- R164: the table of the byte mapper, all thirteen rows: pattern, difference, result. -/
def Obligations.UnitbWorkedResults : Prop :=
  (unitPattern 0x00#8 = 0x3F000000#32 ∧ fsub32 0x3F000000#32 0x3F000000#32 = 0x00000000#32 ∧
    (respond (.unitb 0x00#8)).y = 0x00000000#64) ∧
  (unitPattern 0x01#8 = 0x3F008000#32 ∧ fsub32 0x3F008000#32 0x3F000000#32 = 0x3B000000#32 ∧
    (respond (.unitb 0x01#8)).y = 0x3B800000#64) ∧
  (unitPattern 0x02#8 = 0x3F010000#32 ∧ fsub32 0x3F010000#32 0x3F000000#32 = 0x3B800000#32 ∧
    (respond (.unitb 0x02#8)).y = 0x3C000000#64) ∧
  (unitPattern 0x03#8 = 0x3F018000#32 ∧ fsub32 0x3F018000#32 0x3F000000#32 = 0x3BC00000#32 ∧
    (respond (.unitb 0x03#8)).y = 0x3C400000#64) ∧
  (unitPattern 0x10#8 = 0x3F080000#32 ∧ fsub32 0x3F080000#32 0x3F000000#32 = 0x3D000000#32 ∧
    (respond (.unitb 0x10#8)).y = 0x3D800000#64) ∧
  (unitPattern 0x40#8 = 0x3F200000#32 ∧ fsub32 0x3F200000#32 0x3F000000#32 = 0x3E000000#32 ∧
    (respond (.unitb 0x40#8)).y = 0x3E800000#64) ∧
  (unitPattern 0x7F#8 = 0x3F3F8000#32 ∧ fsub32 0x3F3F8000#32 0x3F000000#32 = 0x3E7E0000#32 ∧
    (respond (.unitb 0x7F#8)).y = 0x3EFE0000#64) ∧
  (unitPattern 0x80#8 = 0x3F400000#32 ∧ fsub32 0x3F400000#32 0x3F000000#32 = 0x3E800000#32 ∧
    (respond (.unitb 0x80#8)).y = 0x3F000000#64) ∧
  (unitPattern 0x81#8 = 0x3F408000#32 ∧ fsub32 0x3F408000#32 0x3F000000#32 = 0x3E810000#32 ∧
    (respond (.unitb 0x81#8)).y = 0x3F010000#64) ∧
  (unitPattern 0xAA#8 = 0x3F550000#32 ∧ fsub32 0x3F550000#32 0x3F000000#32 = 0x3EAA0000#32 ∧
    (respond (.unitb 0xAA#8)).y = 0x3F2A0000#64) ∧
  (unitPattern 0xC0#8 = 0x3F600000#32 ∧ fsub32 0x3F600000#32 0x3F000000#32 = 0x3EC00000#32 ∧
    (respond (.unitb 0xC0#8)).y = 0x3F400000#64) ∧
  (unitPattern 0xFE#8 = 0x3F7F0000#32 ∧ fsub32 0x3F7F0000#32 0x3F000000#32 = 0x3EFE0000#32 ∧
    (respond (.unitb 0xFE#8)).y = 0x3F7E0000#64) ∧
  (unitPattern 0xFF#8 = 0x3F7F8000#32 ∧ fsub32 0x3F7F8000#32 0x3F000000#32 = 0x3EFF0000#32 ∧
    (respond (.unitb 0xFF#8)).y = 0x3F7F0000#64)

/-! ### Signed zeros -/

/-- R84: `-0.0` through DECOMP, DECODE and RECON, both zeros through the quantizers, and the zero that comes out of
Q7TS, Q7TD and UNITB. -/
def Obligations.SignedZeros : Prop :=
  respond (.decomp 0x80000000#32) = { y := 1, y1 := 0, y2 := 0, cat := 0, eu := 0 } ∧
  respond (.decode 1#1 0#8 0#23)
    = { y := 0xBF800000#64, y1 := 0x00800000#32, y2 := 0x00000000#32, cat := 1#2, eu := 0x182#9 } ∧
  (respond (.recon 0xBF800000#32 0x00800000#32 0x00000000#32 .subnormal)).y = 0x80000000#64 ∧
  (respond (.q7fs 0x00000000#32)).y = 0#64 ∧ (respond (.q7fs 0x80000000#32)).y = 0#64 ∧
  (respond (.q7fd 0x0000000000000000#64)).y = 0#64 ∧ (respond (.q7fd 0x8000000000000000#64)).y = 0#64 ∧
  (respond (.q7ts 0#8)).y = 0#64 ∧ (respond (.q7td 0#8)).y = 0#64 ∧ (respond (.unitb 0#8)).y = 0#64
end

