-- ==== Sys2Proof/Laws/Words.lean ====
section
/-! SUPPORT. The fields of the request and response words, of patterns, and the two code tables. -/

namespace Sys2Proof

/-- A slice of the upper part of a concatenation. -/
theorem extractLsb'_append_high {m n : Nat} (x : BitVec m) (y : BitVec n) (i w : Nat) :
    (x ++ y).extractLsb' (n + i) w = x.extractLsb' i w := by
  apply BitVec.eq_of_getLsbD_eq
  intro j hj
  simp [BitVec.getLsbD_append, show ¬ n + i + j < n by omega, show n + i + j - n = i + j by omega]

/-- A slice of the lower part of a concatenation. -/
theorem extractLsb'_append_low {m n : Nat} (x : BitVec m) (y : BitVec n) (i w : Nat) (h : i + w ≤ n) :
    (x ++ y).extractLsb' i w = y.extractLsb' i w := by
  apply BitVec.eq_of_getLsbD_eq
  intro j hj
  simp [BitVec.getLsbD_append, show i + j < n by omega]

/-- A slice of the whole width is the vector. -/
theorem extractLsb'_whole {w : Nat} (x : BitVec w) : x.extractLsb' 0 w = x := by simp

/-- Two adjacent slices, concatenated, are the slice over both. -/
theorem append_adjacent {n : Nat} (x : BitVec n) (i v w : Nat) :
    x.extractLsb' (i + v) w ++ x.extractLsb' i v = x.extractLsb' i (w + v) := by
  apply BitVec.eq_of_getLsbD_eq
  intro j hj
  simp only [BitVec.getLsbD_append, BitVec.getLsbD_extractLsb', hj, decide_true, Bool.true_and]
  split
  · rename_i h; simp [h]
  · rw [show i + v + (j - v) = i + j by omega]
    simp [show j - v < w by omega]

@[simp] theorem Op.ofCode_code (o : Op) : Op.ofCode o.code = o := by cases o <;> rfl
@[simp] theorem Op.code_ofCode (c : BitVec 3) : (Op.ofCode c).code = c := by revert c; decide
@[simp] theorem Category.ofCode_code_eq (c : Category) : Category.ofCode c.code = c := by cases c <;> rfl
@[simp] theorem Category.code_ofCode_eq (c : BitVec 2) : (Category.ofCode c).code = c := by revert c; decide

/-! ### The ports of a request word (R45) -/

@[simp] theorem reqOp_toWord (p : ReqPorts) : reqOp p.toWord = p.op :=
  (extractLsb'_append_low (p.c ++ p.b ++ p.a ++ p.k) p.op 0 3 (by omega)).trans (extractLsb'_whole _)

@[simp] theorem reqK_toWord (p : ReqPorts) : reqK p.toWord = p.k :=
  (extractLsb'_append_high (p.c ++ p.b ++ p.a ++ p.k) p.op 0 2).trans
    ((extractLsb'_append_low (p.c ++ p.b ++ p.a) p.k 0 2 (by omega)).trans (extractLsb'_whole _))

@[simp] theorem reqA_toWord (p : ReqPorts) : reqA p.toWord = p.a :=
  (extractLsb'_append_high (p.c ++ p.b ++ p.a ++ p.k) p.op 2 64).trans
    ((extractLsb'_append_high (p.c ++ p.b ++ p.a) p.k 0 64).trans
      ((extractLsb'_append_low (p.c ++ p.b) p.a 0 64 (by omega)).trans (extractLsb'_whole _)))

@[simp] theorem reqB_toWord (p : ReqPorts) : reqB p.toWord = p.b :=
  (extractLsb'_append_high (p.c ++ p.b ++ p.a ++ p.k) p.op 66 32).trans
    ((extractLsb'_append_high (p.c ++ p.b ++ p.a) p.k 64 32).trans
      ((extractLsb'_append_high (p.c ++ p.b) p.a 0 32).trans
        ((extractLsb'_append_low p.c p.b 0 32 (by omega)).trans (extractLsb'_whole _))))

@[simp] theorem reqC_toWord (p : ReqPorts) : reqC p.toWord = p.c :=
  (extractLsb'_append_high (p.c ++ p.b ++ p.a ++ p.k) p.op 98 32).trans
    ((extractLsb'_append_high (p.c ++ p.b ++ p.a) p.k 96 32).trans
      ((extractLsb'_append_high (p.c ++ p.b) p.a 32 32).trans
        ((extractLsb'_append_high p.c p.b 0 32).trans (extractLsb'_whole _))))

namespace Machine

@[simp] theorem sign32_pack32 (s : BitVec 1) (e : BitVec 8) (f : BitVec 23) : sign32 (pack32 s e f) = s :=
  (extractLsb'_append_high (s ++ e) f 8 1).trans ((extractLsb'_append_high s e 0 1).trans (extractLsb'_whole s))

@[simp] theorem exp32_pack32 (s : BitVec 1) (e : BitVec 8) (f : BitVec 23) : exp32 (pack32 s e f) = e :=
  (extractLsb'_append_high (s ++ e) f 0 8).trans
    ((extractLsb'_append_low s e 0 8 (by omega)).trans (extractLsb'_whole e))

@[simp] theorem frac32_pack32 (s : BitVec 1) (e : BitVec 8) (f : BitVec 23) : frac32 (pack32 s e f) = f :=
  (extractLsb'_append_low (s ++ e) f 0 23 (by omega)).trans (extractLsb'_whole f)

/-- A binary32 pattern is the concatenation of its three fields (R33). -/
@[simp] theorem pack32_fields (p : Pat32) : pack32 (sign32 p) (exp32 p) (frac32 p) = p := by
  have h : sign32 p ++ exp32 p = p.extractLsb' 23 9 := append_adjacent p 23 8 1
  have h' : p.extractLsb' 23 9 ++ frac32 p = p.extractLsb' 0 32 := append_adjacent p 0 23 9
  exact (congrArg (· ++ frac32 p) h).trans (h'.trans (extractLsb'_whole p))

@[simp] theorem sign64_pack64 (s : BitVec 1) (e : BitVec 11) (f : BitVec 52) : sign64 (pack64 s e f) = s :=
  (extractLsb'_append_high (s ++ e) f 11 1).trans ((extractLsb'_append_high s e 0 1).trans (extractLsb'_whole s))

@[simp] theorem exp64_pack64 (s : BitVec 1) (e : BitVec 11) (f : BitVec 52) : exp64 (pack64 s e f) = e :=
  (extractLsb'_append_high (s ++ e) f 0 11).trans
    ((extractLsb'_append_low s e 0 11 (by omega)).trans (extractLsb'_whole e))

@[simp] theorem frac64_pack64 (s : BitVec 1) (e : BitVec 11) (f : BitVec 52) : frac64 (pack64 s e f) = f :=
  (extractLsb'_append_low (s ++ e) f 0 52 (by omega)).trans (extractLsb'_whole f)

/-- A 64-bit pattern is the concatenation of its three fields (R74). -/
@[simp] theorem pack64_fields (p : Pat64) : pack64 (sign64 p) (exp64 p) (frac64 p) = p := by
  have h : sign64 p ++ exp64 p = p.extractLsb' 52 12 := append_adjacent p 52 11 1
  have h' : p.extractLsb' 52 12 ++ frac64 p = p.extractLsb' 0 64 := append_adjacent p 0 52 12
  exact (congrArg (· ++ frac64 p) h).trans (h'.trans (extractLsb'_whole p))

theorem nonZeroFraction_ne_zero (f : BitVec 52) : nonZeroFraction f ≠ 0#52 := by
  unfold nonZeroFraction
  split
  · decide
  · assumption

/-- Every non-zero fraction is one a widened NaN can carry (R77). -/
theorem nonZeroFraction_of_ne_zero {f : BitVec 52} (h : f ≠ 0#52) : nonZeroFraction f = f := if_neg h

end Machine
end Sys2Proof
end

