-- ==== Sys2Proof/Laws/Arith.lean ====
section
/-! SUPPORT. What the shared arithmetic does: a number that is representable is returned unchanged (R78), and the
integer part of a scaled magnitude is its floor (R140). -/

namespace Sys2Proof.Machine

theorem msb_mul_two_pow {m : Nat} (hm : m ≠ 0) (k : Nat) : msb (m * 2 ^ k) = msb m + k := by
  have h2 : 0 < 2 ^ k := Nat.two_pow_pos k
  unfold msb
  rw [Nat.log2_eq_iff (by positivity)]
  have h := (Nat.log2_eq_iff (n := m) (k := m.log2) hm).1 rfl
  constructor
  · rw [pow_add]; exact Nat.mul_le_mul_right _ h.1
  · rw [show m.log2 + k + 1 = (m.log2 + 1) + k by omega, pow_add]
    exact Nat.mul_lt_mul_of_pos_right h.2 h2

theorem msb_eq_of_bounds {n k : Nat} (h1 : 2 ^ k ≤ n) (h2 : n < 2 ^ (k + 1)) : msb n = k := by
  have : n ≠ 0 := by have := Nat.two_pow_pos k; omega
  exact (Nat.log2_eq_iff this).2 ⟨h1, h2⟩

theorem msb_lt_of_lt {n k : Nat} (h0 : n ≠ 0) (h : n < 2 ^ k) : msb n < k := (Nat.log2_lt h0).2 h

/-- Dropping `k` zero bits rounds nothing. -/
theorem shiftRightNearestEven_exact (n k : Nat) : shiftRightNearestEven (n * 2 ^ k) k = n := by
  have h2 : 0 < 2 ^ k := Nat.two_pow_pos k
  have h3 : 0 < 2 ^ (k - 1) := Nat.two_pow_pos _
  simp only [shiftRightNearestEven, Nat.mul_mod_left, Nat.mul_div_cancel n h2]
  rw [if_neg]
  omega

/-- `(n, q)` names a binary32 magnitude in the only way `round32` does: a normal one has `n >= 2^23`, a subnormal one
`q = -149`. -/
def Normalized (n : Nat) (q : Int) : Prop := n ≠ 0 ∧ n < 2 ^ 24 ∧ -149 ≤ q ∧ (2 ^ 23 ≤ n ∨ q = -149)

/-- The unit that `round32` keeps for a normalized magnitude is its own. -/
theorem roundUnit_normalized {n : Nat} {q : Int} (h : Normalized n q) : roundUnit n q = q := by
  obtain ⟨h0, h1, h2, h3⟩ := h
  unfold roundUnit
  rcases h3 with h3 | h3
  · rw [msb_eq_of_bounds h3 h1]; omega
  · have := msb_lt_of_lt h0 h1; omega

/-- `round32` of a normalized magnitude written with more low bits (`m = n * 2^k`) returns it unchanged. -/
theorem round32_scaled_down {n : Nat} {q : Int} (h : Normalized n q) (s : BitVec 1) (k : Nat) :
    round32 s (n * 2 ^ k) (q - k) = packRounded s n q := by
  have h2 : 0 < 2 ^ k := Nat.two_pow_pos k
  have hm : n * 2 ^ k ≠ 0 := by have := h.1; positivity
  have hu : roundUnit (n * 2 ^ k) (q - k) = q := by
    have := roundUnit_normalized h
    unfold roundUnit at this ⊢
    rw [msb_mul_two_pow h.1]
    push_cast
    rw [← this]
    omega
  have hn : roundInteger (n * 2 ^ k) (q - k) q = n := by
    unfold roundInteger
    rw [show (q - (q - (k : Int))).toNat = k by omega, shiftRightNearestEven_exact]
    split
    · rw [show (q - (k : Int) - q).toNat = 0 by omega, show k = 0 by omega]; simp
    · rfl
  simp only [round32, if_neg hm, hu, hn]
  rw [if_neg (by have := h.2.1; omega)]

/-- `round32` of a normalized magnitude written with fewer low bits (`n = m * 2^k`) returns it unchanged. -/
theorem round32_scaled_up {m k : Nat} {q : Int} (h : Normalized (m * 2 ^ k) q) (s : BitVec 1) :
    round32 s m (q + k) = packRounded s (m * 2 ^ k) q := by
  have hm : m ≠ 0 := by rintro rfl; exact h.1 (by simp)
  have hu : roundUnit m (q + k) = q := by
    have := roundUnit_normalized h
    unfold roundUnit at this ⊢
    rw [msb_mul_two_pow hm] at this
    push_cast at this
    rw [← this]
    omega
  have hn : roundInteger m (q + k) q = m * 2 ^ k := by
    unfold roundInteger
    rw [if_pos (by omega), show (q + (k : Int) - q).toNat = k by omega]
  simp only [round32, if_neg hm, hu, hn]
  rw [if_neg (by have := h.2.1; omega)]

/-- The magnitude of a pattern, read as finite and not zero, is normalized. -/
theorem normalized_of_mag_ne_zero {p : Pat32} (h0 : mag32 p ≠ 0) :
    Normalized (mag32 p) (ulp32 p) := by
  have hf := (frac32 p).isLt
  have he := (exp32 p).isLt
  refine ⟨h0, ?_, ?_, ?_⟩
  · unfold mag32; split <;> omega
  · unfold ulp32
    split
    · omega
    · rename_i hz
      have : (exp32 p).toNat ≠ 0 := fun hc => hz (by apply BitVec.eq_of_toNat_eq; simpa using hc)
      omega
  · unfold mag32 ulp32; split <;> simp

/-- A finite pattern is what `packRounded` makes of its magnitude. -/
theorem packRounded_fields {p : Pat32} (h : isFinite32 p = true) :
    packRounded (sign32 p) (mag32 p) (ulp32 p) = p := by
  have hf := (frac32 p).isLt
  have he := (exp32 p).isLt
  have hE : exp32 p ≠ 255#8 := by simpa [isFinite32] using h
  have hE' : (exp32 p).toNat ≠ 255 := fun hc => hE (by apply BitVec.eq_of_toNat_eq; simpa using hc)
  have hp := pack32_fields p
  unfold packRounded mag32 ulp32
  by_cases hz : exp32 p = 0#8
  · rw [hz] at hp
    simp only [if_pos hz]
    rw [if_neg (Nat.not_le.2 hf), BitVec.ofNat_toNat, BitVec.setWidth_eq]
    exact hp
  · simp only [if_neg hz]
    rw [if_pos (Nat.le_add_right _ _), if_neg (by omega), Nat.add_sub_cancel_left, sub_add_cancel]
    have he' : BitVec.ofInt 8 ((exp32 p).toNat : Int) = exp32 p := by
      apply BitVec.eq_of_toNat_eq
      simp
    rw [he', BitVec.ofNat_toNat, BitVec.setWidth_eq]
    exact hp

/-- Outside the special cases a product is the exact product rounded once (R79). -/
theorem fmul32_of_finite {p q : Pat32} (hp : isFinite32 p = true) (hq : isFinite32 q = true) :
    fmul32 p q = round32 (sign32 p ^^^ sign32 q) (mag32 p * mag32 q) (ulp32 p + ulp32 q) := by
  have hp' : exp32 p ≠ 255#8 := by simpa [isFinite32] using hp
  have hq' : exp32 q ≠ 255#8 := by simpa [isFinite32] using hq
  simp [fmul32, isNaN32, isInf32, hp', hq']

/-- Within its precondition a sum is the sum of two finite patterns: the free value is not read (R80). -/
theorem fadd32_of_finite {p q : Pat32} (hp : isFinite32 p = true) (hq : isFinite32 q = true) :
    fadd32 p q = faddFinite p q := by simp [fadd32, hp, hq]

/-- `integerPart` is the floor of the magnitude. -/
theorem integerPart_eq_floor (m : Nat) (e : Int) : (integerPart m e : Int) = ⌊(m : ℚ) * (2 : ℚ) ^ e⌋ := by
  unfold integerPart
  split
  · rename_i h
    obtain ⟨k, rfl⟩ := Int.eq_ofNat_of_zero_le h
    rw [show (m : ℚ) * (2 : ℚ) ^ (k : Int) = ((m * 2 ^ k : Nat) : ℚ) by push_cast; simp]
    rw [Int.floor_natCast, Nat.shiftLeft_eq]
    simp
  · rename_i h
    obtain ⟨k, hk⟩ := Int.eq_ofNat_of_zero_le (show 0 ≤ -e by omega)
    obtain rfl : e = -(k : Int) := by omega
    rw [Nat.shiftRight_eq_div_pow]
    simp only [neg_neg, Int.toNat_natCast, zpow_neg, zpow_natCast]
    rw [show (m : ℚ) * ((2 : ℚ) ^ k)⁻¹ = ((m : ℕ) : ℚ) / ((2 ^ k : ℕ) : ℚ) by push_cast; rw [div_eq_mul_inv]]
    rw [Rat.floor_natCast_div_natCast]
    simp

/-- Every result of `quant` is a Q7 integer, so that `tc_8` loses nothing (R140, R85). -/
theorem quant_bounds (v : ExtReal) : -128 ≤ quant v ∧ quant v ≤ 127 := by
  have key : ∀ (m : Nat) (e : Int), ¬ 1 ≤ integerPart m e → integerPart (m * 128) e ≤ 127 := by
    intro m e h
    unfold integerPart at *
    split at h
    · rename_i he
      rw [if_pos he]
      have hm : m = 0 := by
        rw [Nat.shiftLeft_eq] at h
        by_contra hm
        exact h (Nat.one_le_iff_ne_zero.2 (by positivity))
      simp [hm]
    · rename_i he
      rw [if_neg he]
      rw [Nat.shiftRight_eq_div_pow] at *
      have h2 : 0 < 2 ^ (-e).toNat := Nat.two_pow_pos _
      have : m < 2 ^ (-e).toNat := by
        by_contra hc
        exact h ((Nat.one_le_div_iff h2).2 (by omega))
      have : m * 128 / 2 ^ (-e).toNat < 128 := Nat.div_lt_of_lt_mul (by nlinarith)
      omega
  cases v with
  | infinite s => simp only [quant, Config.q7Min, Config.q7Max]; split <;> omega
  | finite s m e =>
    simp only [quant, Config.q7Min, Config.q7Max, Config.q7Scale]
    split
    · split <;> omega
    · rename_i h
      have := key m e h
      unfold signedInt
      split <;> omega

end Sys2Proof.Machine
end

