-- ==== Sys2Proof/Laws/PerInstr.lean ====
section
/-! SUPPORT. A fact about every instruction as syntax, one lemma per constructor. -/

namespace Sys2Proof.Laws.OpcodeField

/-- The instruction is well-formed, and bits 2 to 0 of its canonical request word are its number in the operation map
(spec/30_encoding.md R46, R50, R62). -/
def Statement (i : Instr) : Prop := WellFormed i = true ∧ (encode i).extractLsb' 0 3 = i.op.code

/-- The lowest port of a request word is `op` (R45). -/
theorem toWord_op (p : ReqPorts) : p.toWord.extractLsb' 0 3 = p.op := reqOp_toWord p

theorem decomp (p : Pat32) : Statement (.decomp p) := ⟨rfl, toWord_op _⟩
theorem decode (s : BitVec 1) (e : BitVec 8) (f : BitVec 23) : Statement (.decode s e f) := ⟨rfl, toWord_op _⟩
theorem recon (a b c : Pat32) (k : Category) : Statement (.recon a b c k) := ⟨rfl, toWord_op _⟩
theorem q7fs (p : Pat32) : Statement (.q7fs p) := ⟨rfl, toWord_op _⟩
theorem q7fd (p : Pat64) : Statement (.q7fd p) := ⟨rfl, toWord_op _⟩
theorem q7ts (q : Byte) : Statement (.q7ts q) := ⟨rfl, toWord_op _⟩
theorem q7td (q : Byte) : Statement (.q7td q) := ⟨rfl, toWord_op _⟩
theorem unitb (b : Byte) : Statement (.unitb b) := ⟨rfl, toWord_op _⟩

end Sys2Proof.Laws.OpcodeField
end

