-- ==== Sys2Proof/Laws/State.lean ====
section
/-! SUPPORT. The two fields of State under its two updates, and what a step can do. -/

namespace Sys2Proof.Machine

/-- FXQ holds the unit type, so no two states differ in it (R10). -/
theorem State.held_eq (s t : State) : s.held = t.held := rfl

@[simp] theorem State.present_req (s : State) (w : ReqWord) : (s.present w).req = some w := rfl
@[simp] theorem State.present_rsp (s : State) (w : ReqWord) : (s.present w).rsp = none := rfl
@[simp] theorem State.present_present (s : State) (v w : ReqWord) : (s.present v).present w = s.present w := rfl
@[simp] theorem State.answer_req (s : State) (r : Rsp) : (s.answer r).req = none := rfl
@[simp] theorem State.answer_rsp (s : State) (r : Rsp) : (s.answer r).rsp = some r := rfl
@[simp] theorem State.quiet_req (s : State) : s.quiet.req = none := rfl
@[simp] theorem State.quiet_rsp (s : State) : s.quiet.rsp = none := rfl
@[simp] theorem State.quiet_eq_reset (s : State) : s.quiet = State.reset := rfl
@[simp] theorem State.withFetchWord_eq_present (s : State) (nbits w : Nat) :
    s.withFetchWord nbits w = s.present (tableReq nbits w) := rfl

/-- An answer is the whole next state: nothing of the state before it is left. -/
theorem State.answer_eq_answer (s t : State) (r : Rsp) : s.answer r = t.answer r := rfl

/-- A request presented is all there is: nothing of the state before it is left. -/
theorem State.present_eq_present (s t : State) (w : ReqWord) : s.present w = t.present w := rfl

@[simp] theorem fetch_present (s : State) (w : ReqWord) : fetch (s.present w) = some (decode w) := rfl

/-- What an operation does, said once for all eight: it answers with its response. -/
theorem exec_eq_answer (i : Instr) (s : State) : exec i s = .next (s.answer (respond i)) := by
  cases i <;> rfl

/-- What a step can do: without a request it leaves nothing on the ports, else it is the transaction of the request. -/
theorem step_cases {s t : State} (h : step s = .next t) :
    (s.req = none ∧ t = s.quiet) ∨ ∃ w, s.req = some w ∧ t = s.answer (fxq w) := by
  obtain ⟨held, req, rsp⟩ := s
  cases req with
  | none => exact .inl ⟨rfl, by cases h; rfl⟩
  | some w =>
    have hs : step ⟨held, some w, rsp⟩ = exec (decode w) ⟨held, some w, rsp⟩ := rfl
    rw [hs, exec_eq_answer] at h
    cases h
    exact .inr ⟨w, rfl, rfl⟩

end Sys2Proof.Machine
end

