-- ==== Sys2Proof/Tests/Slice0.lean ====
section
/-! SUPPORT. Small tests: expected results are the spec's own vectors (spec/95_test_vectors.md and the tables under
R138, R122, R164), and a witness for the hypotheses of every statement that has some. -/

namespace Sys2Proof.Tests

open Sys2Proof Sys2Proof.Machine

/-! ### Well-formedness -/

/-- Every instruction is well-formed: no operand pattern is illegal (R62). So no ill-formed instruction exists. -/
theorem test_every_instr_wellFormed (i : Instr) : WellFormed i = true := by cases i <;> rfl

/-- The pipeline of R60 is a well-formed program. -/
theorem test_roundTrip_wellFormed : programWellFormed [] (roundTrip 1 2 3 (.literal 0x40490FDB)) = true := by decide

/-- A label used twice is refused. -/
theorem test_duplicate_label_refused :
    programWellFormed [] [{ label := 1, mnemonic := .decomp }, { label := 1, mnemonic := .unitb }] = false := by decide

/-- A line that uses its own response is refused, whichever port names it (R193). -/
theorem test_self_reference_refused :
    programWellFormed [] [{ label := 1, mnemonic := .recon, a := .field 1 .y }] = false ∧
    programWellFormed [] [{ label := 1, mnemonic := .recon, b := .field 1 .y1 }] = false ∧
    programWellFormed [] [{ label := 1, mnemonic := .recon, c := .field 1 .y2 }] = false ∧
    programWellFormed [] [{ label := 1, mnemonic := .recon, k := .field 1 .cat }] = false := by decide

/-! ### Decoding: the spec's own request words, at least one for each operation -/

/-- P1, label d. -/
theorem test_decode_decomp : decode 0x80921FB60#133 = .decomp 0x40490FDB#32 := by decide
/-- P2, label e: a negative subnormal. -/
theorem test_decode_decode :
    decode 0x0008000000000000000000000000000021#133 = .decode 1#1 0x00#8 0x400000#23 := by decide
/-- P2, label r: category SUBNORMAL. -/
theorem test_decode_recon :
    decode 0x07E00000001000000000000017F000000A#133
      = .recon 0xBF800000#32 0x00800000#32 0x3F000000#32 .subnormal := by decide
/-- P3, label r, and the NaN request of P3: categories INFINITY and NAN. -/
theorem test_decode_recon_special :
    decode 0x17F0000012#133 = .recon 0xBF800000#32 0#32 0#32 .infinity ∧
    decode 0x17F000001A#133 = .recon 0xBF800000#32 0#32 0#32 .nan := by decide
/-- P4, label q. -/
theorem test_decode_q7fs : decode 0x7D3333343#133 = .q7fs 0x3E99999A#32 := by decide
/-- P4, label q3. -/
theorem test_decode_q7fd : decode 0x7FA60000000000004#133 = .q7fd 0x3FD3000000000000#64 := by decide
/-- P4, label s. -/
theorem test_decode_q7ts : decode 0x4C5#133 = .q7ts 0x26#8 := by decide
/-- P4, label dd. -/
theorem test_decode_q7td : decode 0x4C6#133 = .q7td 0x26#8 := by decide
/-- P5, label u. -/
theorem test_decode_unitb : decode 0x1907#133 = .unitb 0xC8#8 := by decide
/-- 2.3: sign 2, exponent 256 and fraction 2^23 all truncate to 0 (R121). -/
theorem test_decode_truncates_fields :
    decode (ReqPorts.toWord { op := 1, k := 0, a := 0x2, b := 0x100, c := 0x800000 }) = .decode 0#1 0#8 0#23 := by decide
/-- A row's word in a container of whole bytes: what stands above bit 132 is no part of the request. -/
theorem test_decodeTableWord_padding :
    decodeTableWord 136 (2 ^ 135 + 0x1907) = some (.unitb 0xC8#8) ∧ decodeTableWord 8 0x4C5 = some (.q7ts 0x06#8) := by
  decide
/-- P1, label e: the encoder gives the spec's request word. -/
theorem test_encode_decode :
    encode (.decode 0#1 0x80#8 0x490FDB#23) = 0x000921FB60000010000000000000000001#133 := by decide

/-- R16: the derived constants agree with the ones they are derived from. -/
theorem test_constants_agree :
    Config.signShift = Config.mantWidth + Config.expWidth ∧ Config.expShift = Config.mantWidth ∧
    Config.emin = 1 - (Config.bias : Int) ∧ Config.q7Scale = Config.radix ^ 7 ∧
    Config.unitShift = Config.mantWidth - 8 ∧ Config.unitBase = BitVec.ofNat 32 ((Config.bias - 1) <<< Config.mantWidth) ∧
    Config.fracMask = BitVec.ofNat 32 (2 ^ Config.mantWidth - 1) ∧ Config.bias64 = 2 ^ 10 - 1 := by decide

/-! ### One step, at most two tests an instruction -/

/-- The response on the ports after one step from reset with the request word presented. -/
def answerTo (w : ReqWord) : Option Rsp :=
  match step (State.reset.present w) with
  | .next t => t.rsp
  | .fault _ => none
  | .refused _ => none

/-- P3, label d: minus infinity. -/
theorem test_step_decomp : (answerTo 0x1FF0000000#133).map Rsp.toWord = some 0xFF0000000000000001#139 := by decide
/-- 2.3: the upper half of `a` and the unused ports change nothing. -/
theorem test_step_decomp_ignores :
    answerTo (ReqPorts.toWord { op := 0, k := 3, a := 0xDEADBEEF40490FDB, b := 0xFFFFFFFF, c := 0x12345678 })
      = some { y := 0x0, y1 := 0x80, y2 := 0x490FDB, cat := 0, eu := 0 } := by decide
/-- P1, label e: the response word of a normal number. -/
theorem test_step_decode :
    (answerTo 0x000921FB60000010000000000000000001#133).map Rsp.toWord
      = some 0x0043FC90FDB40000000000000003F800000#139 := by decide +kernel
/-- R122 table: the largest subnormal, all 23 bits set and no implicit one. -/
theorem test_step_decode_subnormal :
    answerTo (encode (.decode 0#1 0x00#8 0x7FFFFF#23))
      = some { y := 0x3F800000, y1 := 0x00800000, y2 := 0x3F7FFFFE, cat := 1, eu := 0x182 } := by decide +kernel
/-- R138: two roundings. -/
theorem test_step_recon :
    answerTo (encode (.recon 0x3F800001#32 0x3F800001#32 0x3F800001#32 .normal)) = some (yOnly 0x3F800003) := by decide
/-- R138: a tie on the subnormal grid goes to even, up. -/
theorem test_step_recon_tie :
    answerTo (encode (.recon 0x00800003#32 0x3F000000#32 0x3F800000#32 .normal)) = some (yOnly 0x00400002) := by decide
/-- 2.5: -0.3 truncates toward zero, to -38. -/
theorem test_step_q7fs : answerTo (encode (.q7fs 0xBE99999A#32)) = some (yOnly 0xDA) := by decide
/-- 2.5: a NaN gives 0. -/
theorem test_step_q7fs_nan : answerTo (encode (.q7fs 0xFFC00001#32)) = some (yOnly 0x00) := by decide
/-- 2.6: the largest value above the lower clamp gives -127. -/
theorem test_step_q7fd : answerTo (encode (.q7fd 0xBFEFFFFFFFFFFFFF#64)) = some (yOnly 0x81) := by decide
/-- 2.6: `1.0` is clamped to 127. -/
theorem test_step_q7fd_clamp : answerTo (encode (.q7fd 0x3FF0000000000000#64)) = some (yOnly 0x7F) := by decide
/-- 2.7: -127. -/
theorem test_step_q7ts : answerTo (encode (.q7ts 0x81#8)) = some (yOnly 0xBF7E0000) := by decide
/-- 2.7: -128, and zero is `+0.0`. -/
theorem test_step_q7ts_edges :
    answerTo (encode (.q7ts 0x80#8)) = some (yOnly 0xBF800000) ∧ answerTo (encode (.q7ts 0x00#8)) = some (yOnly 0) := by
  decide
/-- 2.7: 38, to 64 bits. -/
theorem test_step_q7td : answerTo (encode (.q7td 0x26#8)) = some (yOnly 0x3FD3000000000000) := by decide
/-- 2.7: only `a[7:0]` is read. -/
theorem test_step_q7td_ignores :
    answerTo (ReqPorts.toWord { op := 6, k := 0, a := 0xFFFFFFFFFFFFFF40, b := 0, c := 0 })
      = some (yOnly 0x3FE0000000000000) := by decide
/-- R164: the largest byte. -/
theorem test_step_unitb : answerTo (encode (.unitb 0xFF#8)) = some (yOnly 0x3F7F0000) := by decide
/-- R164: 3, through a subtraction that renormalizes. -/
theorem test_step_unitb_small : answerTo (encode (.unitb 0x03#8)) = some (yOnly 0x3C400000) := by decide

/-! ### The host's lines -/

/-- P1: the requests of the lines `e` and `r`, formed from the spec's responses before them. -/
theorem test_lines_form_requests :
    lineRequest [(1, { y := 0x0, y1 := 0x80, y2 := 0x490FDB, cat := 0, eu := 0 })]
      { label := 2, mnemonic := .decode, a := .field 1 .y, b := .field 1 .y1, c := .field 1 .y2 }
        = some 0x000921FB60000010000000000000000001#133 ∧
    lineRequest [(2, { y := 0xBF800000, y1 := 0, y2 := 0, cat := 2, eu := 0x080 })]
      { label := 3, mnemonic := .recon, a := .field 2 .y, b := .field 2 .y1, c := .field 2 .y2, k := .field 2 .cat }
        = some 0x17F0000012#133 := by decide
/-- A response field wider than its port keeps its low bits (R64): `y` of 64 bits on port `b`. -/
theorem test_line_truncates_field :
    (lineRequest [(1, yOnly 0xDEADBEEF3F800000)] { label := 2, mnemonic := .recon, b := .field 1 .y }).map reqB
      = some 0x3F800000#32 := by decide
/-- A line that names a response not given yet forms no request (R193). -/
theorem test_line_without_answer :
    lineRequest [] { label := 1, mnemonic := .q7ts, a := .field 7 .y } = none := by decide
/-- P4, label s: one line issued. -/
theorem test_issue_line :
    (issueLine { label := 5, mnemonic := .q7ts, a := .field 4 .y } [(4, yOnly 0x26)] State.reset).map (fun r => r.1.head?)
      = some (some (5, yOnly 0x3E980000)) := by decide

/-! ### Witnesses: a state and operands that meet the hypotheses of each statement -/

/-- Two different DECOMP requests that agree on the bits DECOMP names. -/
theorem witness_IgnoredRequestBitsChangeNothing :
    let w : ReqWord := encode (.decomp 0x40490FDB#32)
    let w' : ReqWord := ReqPorts.toWord { op := 0, k := 3, a := 0xDEADBEEF40490FDB, b := 0xFFFFFFFF, c := 0x12345678 }
    w ≠ w' ∧ w &&& namedRequestBits (decode w).op = w' &&& namedRequestBits (decode w).op := by decide

theorem witness_StepRunsDecodedInstruction : (State.reset.present 7).req = some 7 := rfl

/-- A state with a response on its ports and no request. -/
theorem witness_NothingIsHeldBetweenTransactions : (State.reset.answer (yOnly 1)).req = none := rfl

/-- Two different states with the same request. -/
theorem witness_ResponseDependsOnRequestAlone :
    let s : State := { req := some 7, rsp := none }
    let t : State := { req := some 7, rsp := some (yOnly 1) }
    s ≠ t ∧ s.req = some 7 ∧ t.req = some 7 := by decide

theorem witness_RepeatedRequestIsIdempotent :
    step (State.reset.present 7) = .next (State.reset.answer (yOnly 0)) := by rfl

/-- A state with decoded fields on its ports and a request presented. -/
theorem witness_StepKeepsLegalResponse :
    let r : Rsp := { y := 0x3F800000, y1 := 0x40000000, y2 := 0x3FC90FDB, cat := 0, eu := 1 }
    let s : State := { req := some 7, rsp := some r }
    Inv s ∧ step s = .next { req := none, rsp := some (yOnly 0) } := by
  refine ⟨fun r h => ?_, rfl⟩
  cases h
  exact .inr (.inl ⟨.inl rfl, .inl (by decide)⟩)

/-- `Inv` is no triviality: a 64-bit NaN as a single result is none FXQ can give. -/
theorem witness_Inv_refuses_wide_NaN : ¬ Inv { req := none, rsp := some (yOnly 0x7FF8000000000000) } := by
  intro h
  rcases h _ rfl with h | h | h
  · exact absurd h.1 (by decide)
  · exact absurd h.1 (by decide)
  · rcases h.2.2.2.2 with h | ⟨q, h⟩
    · exact absurd h.1 (by decide)
    · revert q; decide +kernel

/-- Nor is a category SUBNORMAL with the mantissa value `0x34000001`, which is `F / 2^23` for no `F`. -/
theorem witness_Inv_refuses_off_grid :
    ¬ Inv { req := none, rsp := some { y := 0x3F800000, y1 := 0x00800000, y2 := 0x34000001, cat := 1, eu := 0x182 } } := by
  intro h
  rcases h _ rfl with h | ⟨-, h | h | h⟩ | h
  · exact absurd h.1 (by decide)
  · exact absurd h.1 (by decide)
  · obtain ⟨-, -, -, F, -, -, hF⟩ := h
    have hv : val32 0x34000001#32 = (2 ^ 23 + 1 : ℚ) / 2 ^ 46 := by decide +kernel
    have hF : (2 ^ 23 + 1 : ℚ) / 2 ^ 46 = (F.toNat : ℚ) / 2 ^ 23 := hv.symm.trans hF
    have hN : (2 ^ 23 + 1 : ℚ) = ((F.toNat * 2 ^ 23 : Nat) : ℚ) := by
      push_cast
      field_simp at hF
      linarith
    have hN : 2 ^ 23 + 1 = F.toNat * 2 ^ 23 := by exact_mod_cast hN
    omega
  · exact absurd h.1 (by decide)
  · exact absurd h.1 (by decide)

/-- A legal response of each kind: raw fields, a SUBNORMAL decode, and the 64-bit float of -1. -/
theorem witness_LegalResponsesAreTheResponses :
    RawFields { y := 1, y1 := 255, y2 := 0x7FFFFF, cat := 0, eu := 0 } ∧
    DecodedFields { y := 0x3F800000, y1 := 0x00800000, y2 := 0x34000000, cat := 1, eu := 0x182 } ∧
    SingleResult (yOnly 0xBF80000000000000) :=
  ⟨⟨by decide, by decide, by decide, rfl, rfl⟩,
   ⟨.inl rfl, .inr (.inl ⟨rfl, by decide, rfl, 1#23, by decide, by decide, by decide +kernel⟩)⟩,
   ⟨rfl, rfl, rfl, rfl, .inr ⟨0xFF#8, by decide⟩⟩⟩

/-- Finite patterns at the edges: zero, smallest and largest subnormal, smallest and largest normal. -/
theorem witness_Binary32Value :
    isFinite32 0x80000000#32 = true ∧ isFinite32 0x00000001#32 = true ∧ isFinite32 0x007FFFFF#32 = true ∧
    isFinite32 0x00800000#32 = true ∧ isFinite32 0x7F7FFFFF#32 = true := by decide

theorem witness_ConstantPatternsHaveTheirValues :
    isFinite32 0xFF7FFFFF#32 = true ∧ (-126 : Int) ≤ -126 ∧ (-126 : Int) ≤ 127 ∧ (-126 : Int) ≤ 127 ∧ (127 : Int) ≤ 127 := by
  decide

/-- The largest multiples of `2^-7` inside the open range. -/
theorem witness_Q7fdByValue : (-1 : ℚ) < 127 / 128 ∧ (127 / 128 : ℚ) < 1 ∧ (-1 : ℚ) < -127 / 128 ∧ (-127 / 128 : ℚ) < 1 := by
  norm_num

theorem witness_Binary64Value :
    BitVec.extractLsb' 52 11 0x0000000000000001#64 ≠ 2047#11 ∧
    BitVec.extractLsb' 52 11 0x7FEFFFFFFFFFFFFF#64 ≠ 2047#11 := by decide

/-- A subnormal, a zero and the largest finite pattern, an infinity and a NaN to widen. -/
theorem witness_WideningIsExact :
    isFinite32 0x00000003#32 = true ∧ isFinite32 0x80000000#32 = true ∧ isFinite32 0x7F7FFFFF#32 = true ∧
    isInf32 0xFF800000#32 = true ∧ isNaN32 0x7F800001#32 = true := by decide

theorem witness_RoundingIsToNearest :
    isFinite32 (round32 0#1 3 (-150)) = true ∧ isFinite32 0x00000001#32 = true := by decide

/-- `2^-150` is a tie between 0 and `2^-149` (R138). -/
theorem witness_RoundingTiesGoToEven :
    isFinite32 (round32 0#1 1 (-150)) = true ∧ isFinite32 0x00000001#32 = true ∧
    val32 0x00000001#32 ≠ val32 (round32 0#1 1 (-150)) ∧
    |val32 0x00000001#32 - dyadic 0#1 1 (-150)| = |val32 (round32 0#1 1 (-150)) - dyadic 0#1 1 (-150)| := by
  decide +kernel

/-- A NaN; infinity by zero; infinity by a number; two finite patterns. -/
theorem witness_MultiplicationByCases :
    isNaN32 0x7FC00001#32 = true ∧
    (isNaN32 0x7F800000#32 = false ∧ isNaN32 0x80000000#32 = false ∧ isInf32 0x7F800000#32 = true ∧
      isZero32 0x80000000#32 = true) ∧
    (isNaN32 0xBF800000#32 = false ∧ isZero32 0x7F800000#32 = false ∧ isZero32 0xBF800000#32 = false) ∧
    (isFinite32 0x7F7FFFFF#32 = true ∧ isFinite32 0x00000001#32 = true) := by decide

/-- Infinity by zero: the NaN that comes out. -/
theorem witness_OnlyCanonicalNaNComesOut :
    isNaN32 (fmul32 0x7F800000#32 0x00000000#32) = true ∧
    isNaN32 (respond (.recon 0xBF800000#32 0#32 0#32 .nan)).yLow = true := by decide

/-- `1.0 + 0.5 = 1.5`, and `1.0 + -1.0`. -/
theorem witness_AdditionIsExactWhereRepresentable :
    (isFinite32 0x3F800000#32 = true ∧ isFinite32 0x3F000000#32 = true ∧ isFinite32 0x3FC00000#32 = true ∧
      val32 0x3FC00000#32 = val32 0x3F800000#32 + val32 0x3F000000#32 ∧ val32 0x3FC00000#32 ≠ 0) ∧
    (isFinite32 0xBF800000#32 = true ∧ val32 0x3F800000#32 + val32 0xBF800000#32 = 0) := by decide +kernel

theorem witness_SubtractionIsAdditionOfNegation : isFinite32 0x80000000#32 = true := by decide

theorem witness_ExponentValueIsPowerOfEffectiveExponent : 0#8 ≠ 255#8 ∧ 1#8 ≠ 255#8 ∧ 254#8 ≠ 255#8 := by decide

theorem witness_MantissaLoopHasClosedForm : 0#8 ≠ 255#8 ∧ 1#8 ≠ 255#8 ∧ 254#8 ≠ 255#8 := by decide

theorem witness_MantissaPartialSumsAreExact : 254#8 ≠ 255#8 ∧ 0 < 23 ∧ 22 < 23 := by decide

/-- Most significant bit first is another order. -/
theorem witness_MantissaOrderDoesNotMatter :
    0#8 ≠ 255#8 ∧ (List.range 23).reverse ≠ List.range 23 ∧ (List.range 23).reverse.Perm (List.range 23) :=
  ⟨by decide, by decide, List.reverse_perm _⟩

theorem witness_MantissaRange : 1#8 ≠ 0#8 ∧ 1#8 ≠ 255#8 ∧ 254#8 ≠ 0#8 ∧ 254#8 ≠ 255#8 ∧ 0#8 = 0#8 ∧ 255#8 = 255#8 := by decide

theorem witness_DecodedFactorsMultiplyToValue :
    isFinite32 0x807FFFFF#32 = true ∧ isFinite32 0x7F7FFFFF#32 = true := by decide

/-- A subnormal, an infinity and a NaN for the round trip. -/
theorem witness_RoundTripRecoversEveryNonNaN :
    isNaN32 0x80400000#32 = false ∧ isFinite32 0x80400000#32 = true ∧ isNaN32 0xFF800000#32 = false ∧
    isNaN32 0xFFC00001#32 = true := by decide

theorem witness_DroppedCategoryGivesSignedZero : (0#2 = 0#2 ∨ 0#2 = 1#2) ∧ (1#2 = 0#2 ∨ 1#2 = 1#2) := by decide

/-- The clamp at `1.0`, an infinity, and the last value below it, at both widths. -/
theorem witness_QuantizersSaturate :
    (isNaN32 0x3F800000#32 = false ∧ 127 ≤ (BitVec.extractLsb' 23 8 0x3F800000#32).toNat) ∧
    (isNaN32 0xFF800000#32 = false ∧ 127 ≤ (BitVec.extractLsb' 23 8 0xFF800000#32).toNat) ∧
    q7OfPat32 0xBF800000#32 = 0x80#8 ∧ q7OfPat32 0x3F7FFFFF#32 = 0x7F#8 ∧ (BitVec.extractLsb' 23 8 0x3F7FFFFF#32).toNat < 127 ∧
    (isNaN64 0x3FF0000000000000#64 = false ∧ 1023 ≤ (BitVec.extractLsb' 52 11 0x3FF0000000000000#64).toNat) ∧
    q7Core 0xBFF0000000000000#64 = 0x80#8 ∧ (BitVec.extractLsb' 52 11 0x3FEFFFFFFFFFFFFF#64).toNat < 1023 := by decide

theorem witness_DequantizersAreExact : 0x00#8 = 0x00#8 ∧ 0x80#8 ≠ 0x00#8 := by decide

/-- The edges of the Q7 range, zero of the negative sign, and a value between two multiples. -/
theorem witness_QuantizeThenDequantizeTruncates :
    (isFinite32 0xBF800000#32 = true ∧ val32 0xBF800000#32 = ((-128 : Int) : ℚ) / 128) ∧
    (isFinite32 0x3F7E0000#32 = true ∧ val32 0x3F7E0000#32 = ((127 : Int) : ℚ) / 128) ∧
    (isFinite32 0x80000000#32 = true ∧ val32 0x80000000#32 = ((0 : Int) : ℚ) / 128) ∧
    (isFinite32 0xBE99999A#32 = true ∧ |val32 0xBE99999A#32| < 1) := by decide +kernel

theorem witness_UnitbIsStrictlyIncreasing : 0x00#8 < 0x01#8 ∧ 0xFE#8 < 0xFF#8 ∧ 0x01#8 ≠ 0#8 := by decide

end Sys2Proof.Tests
end

section
/-! SUPPORT. The exact arithmetic of binary32 patterns: `round32` returns a representable number (R78), a sum that is
representable is exact (R80), a product by `1.0` is the other factor, and no arithmetic result is a NaN but the canonical
one (R79, R82). -/

namespace Sys2Proof.Machine

/-! ### Patterns by their fields -/

theorem pack32_toNat (s : BitVec 1) (e : BitVec 8) (f : BitVec 23) :
    (pack32 s e f).toNat = s.toNat * 2 ^ 31 + e.toNat * 2 ^ 23 + f.toNat := by
  rw [pack32, BitVec.toNat_append, BitVec.toNat_append, ← Nat.shiftLeft_add_eq_or_of_lt f.isLt,
    ← Nat.shiftLeft_add_eq_or_of_lt e.isLt]
  simp only [Nat.shiftLeft_eq]
  omega

theorem toNat_eq_fields (p : Pat32) :
    p.toNat = (sign32 p).toNat * 2 ^ 31 + (exp32 p).toNat * 2 ^ 23 + (frac32 p).toNat := by
  rw [← pack32_toNat, pack32_fields]

theorem toNat_sign32 (p : Pat32) : (sign32 p).toNat = p.toNat / 2 ^ 31 := by
  have hp := toNat_eq_fields p
  have he := (exp32 p).isLt
  have hf := (frac32 p).isLt
  omega

theorem toNat_exp32 (p : Pat32) : (exp32 p).toNat = p.toNat / 2 ^ 23 % 2 ^ 8 := by
  have hp := toNat_eq_fields p
  have he := (exp32 p).isLt
  have hf := (frac32 p).isLt
  omega

theorem toNat_frac32 (p : Pat32) : (frac32 p).toNat = p.toNat % 2 ^ 23 := by
  have hp := toNat_eq_fields p
  have hf := (frac32 p).isLt
  omega

theorem isNaN32_pack32_of_exp_ne {e : BitVec 8} (h : e ≠ 255#8) (s : BitVec 1) (f : BitVec 23) :
    isNaN32 (pack32 s e f) = false := by simp [isNaN32, h]

/-- A pattern that is no NaN is finite or an infinity (R72). -/
theorem isFinite32_or_eq_infinity {p : Pat32} (h : isNaN32 p = false) :
    isFinite32 p = true ∨ p = pack32 (sign32 p) 255#8 0#23 := by
  by_cases he : exp32 p = 255#8
  · have hf : frac32 p = 0#23 := by simpa [isNaN32, he] using h
    right
    rw [← he, ← hf, pack32_fields]
  · exact .inl (by simpa [isFinite32] using he)

/-! ### Exact values -/

/-- `signedInt` is the sign and the magnitude of `dyadic` (R71, R80). -/
theorem signedInt_mul_two_zpow (s : BitVec 1) (m : Nat) (e : Int) :
    (signedInt s m : ℚ) * (2 : ℚ) ^ e = dyadic s m e := by
  unfold signedInt dyadic
  split <;> simp

/-- A magnitude written at a smaller unit stands for the same number. -/
theorem dyadic_at_lower_unit (s : BitVec 1) (m : Nat) {e u : Int} (h : e ≤ u) :
    dyadic s (m * 2 ^ (u - e).toNat) e = dyadic s m u := by
  obtain ⟨k, rfl⟩ := Int.le.dest h
  unfold dyadic
  rw [show (e + (k : Int) - e).toNat = k by omega, zpow_add₀ (by norm_num), zpow_natCast]
  push_cast
  ring

theorem abs_val32 (p : Pat32) : |val32 p| = (mag32 p : ℚ) * (2 : ℚ) ^ ulp32 p := by
  have h : 0 ≤ (mag32 p : ℚ) * (2 : ℚ) ^ ulp32 p := by positivity
  unfold val32 dyadic
  split
  · rw [neg_one_mul, neg_mul, abs_neg, abs_of_nonneg h]
  · rw [one_mul, abs_of_nonneg h]

theorem sign32_of_val32_ne_zero {p : Pat32} (h : val32 p ≠ 0) :
    sign32 p = if val32 p < 0 then 1#1 else 0#1 := by
  have hpos : 0 < (mag32 p : ℚ) * (2 : ℚ) ^ ulp32 p := by rw [← abs_val32]; exact abs_pos.2 h
  by_cases hs : sign32 p = 1#1
  · have hv : val32 p = -((mag32 p : ℚ) * (2 : ℚ) ^ ulp32 p) := by simp [val32, dyadic, hs]
    rw [if_pos (by linarith), hs]
  · have hv : val32 p = (mag32 p : ℚ) * (2 : ℚ) ^ ulp32 p := by simp [val32, dyadic, hs]
    rw [if_neg (by linarith)]
    exact (BitVec.eq_zero_or_eq_one _).resolve_right hs

/-- `round32` of the magnitude of a finite pattern, at whatever unit it is written, is that pattern (R78). -/
theorem round32_of_magnitude {p : Pat32} (hp : isFinite32 p = true) {m : Nat} {e : Int}
    (h : (m : ℚ) * (2 : ℚ) ^ e = (mag32 p : ℚ) * (2 : ℚ) ^ ulp32 p) : round32 (sign32 p) m e = p := by
  by_cases h0 : mag32 p = 0
  · obtain rfl : m = 0 := by simpa [h0, zpow_ne_zero] using h
    have he : exp32 p = 0#8 := by
      by_contra he
      simp [mag32, he] at h0
    have hf : frac32 p = 0#23 := by
      apply BitVec.eq_of_toNat_eq
      simpa [mag32, he] using h0
    rw [round32, if_pos rfl, ← he, ← hf, pack32_fields]
  · have hn := normalized_of_mag_ne_zero h0
    have h2 : (2 : ℚ) ≠ 0 := by norm_num
    rcases le_total (ulp32 p) e with hle | hle
    · obtain ⟨k, rfl⟩ := Int.le.dest hle
      have hm : m * 2 ^ k = mag32 p := by
        rw [zpow_add₀ h2, zpow_natCast, mul_comm ((2 : ℚ) ^ ulp32 p), ← mul_assoc] at h
        exact_mod_cast mul_right_cancel₀ (zpow_ne_zero _ h2) h
      rw [← hm] at hn
      rw [round32_scaled_up hn, hm, packRounded_fields hp]
    · obtain ⟨k, hk⟩ := Int.le.dest hle
      obtain rfl : e = ulp32 p - k := by omega
      have hm : m = mag32 p * 2 ^ k := by
        rw [← sub_add_cancel (ulp32 p) (k : Int), zpow_add₀ h2, zpow_natCast, add_sub_cancel_right,
          mul_comm ((2 : ℚ) ^ _) ((2 : ℚ) ^ k), ← mul_assoc] at h
        exact_mod_cast mul_right_cancel₀ (zpow_ne_zero _ h2) h
      rw [hm, round32_scaled_down hn, packRounded_fields hp]

/-- A finite pattern is fixed by its sign and its value. -/
theorem eq_of_sign32_of_val32 {p q : Pat32} (hp : isFinite32 p = true) (hq : isFinite32 q = true)
    (hs : sign32 p = sign32 q) (hv : val32 p = val32 q) : p = q := by
  have hm : (mag32 p : ℚ) * (2 : ℚ) ^ ulp32 p = (mag32 q : ℚ) * (2 : ℚ) ^ ulp32 q := by
    rw [← abs_val32, ← abs_val32, hv]
  calc p = round32 (sign32 p) (mag32 p) (ulp32 p) := (round32_of_magnitude hp rfl).symm
    _ = round32 (sign32 q) (mag32 p) (ulp32 p) := by rw [hs]
    _ = q := round32_of_magnitude hq hm

/-- A sum that a finite pattern other than zero stands for is that pattern (R80). -/
theorem faddFinite_exact {p q r : Pat32} (hr : isFinite32 r = true) (h0 : val32 r ≠ 0)
    (h : val32 r = val32 p + val32 q) : faddFinite p q = r := by
  simp only [faddFinite]
  generalize he : min (ulp32 p) (ulp32 q) = e0
  generalize ht : signedInt (sign32 p) (mag32 p * 2 ^ (ulp32 p - e0).toNat)
    + signedInt (sign32 q) (mag32 q * 2 ^ (ulp32 q - e0).toNat) = t
  have hval : val32 r = (t : ℚ) * (2 : ℚ) ^ e0 := by
    rw [h, ← ht, Int.cast_add, add_mul, signedInt_mul_two_zpow, signedInt_mul_two_zpow,
      dyadic_at_lower_unit _ _ (by omega), dyadic_at_lower_unit _ _ (by omega)]
    rfl
  have h2 : (0 : ℚ) < (2 : ℚ) ^ e0 := by positivity
  have ht0 : t ≠ 0 := by
    rintro rfl
    exact h0 (by simpa using hval)
  have hsign : (if t < 0 then 1#1 else 0#1) = sign32 r := by
    have hneg : val32 r < 0 ↔ t < 0 := by
      rw [hval, ← not_le, mul_nonneg_iff_of_pos_right h2, not_le, Int.cast_lt_zero]
    rw [sign32_of_val32_ne_zero h0]
    simp only [hneg]
  have hmag : (t.natAbs : ℚ) * (2 : ℚ) ^ e0 = (mag32 r : ℚ) * (2 : ℚ) ^ ulp32 r := by
    rw [← abs_val32, hval, abs_mul, abs_of_pos h2, Nat.cast_natAbs, Int.cast_abs]
  rw [if_neg ht0, hsign, round32_of_magnitude hr hmag]

/-- Multiplication by `1.0` returns every finite pattern (R79). -/
theorem fmul32_one {p : Pat32} (hp : isFinite32 p = true) : fmul32 p 0x3F800000#32 = p := by
  have hs : sign32 0x3F800000#32 = 0#1 := by decide
  have hm : mag32 0x3F800000#32 = 2 ^ 23 := by decide
  have hu : ulp32 0x3F800000#32 = -23 := by decide
  rw [fmul32_of_finite hp (by decide), hs, hm, hu, BitVec.xor_zero]
  apply round32_of_magnitude hp
  rw [zpow_add₀ (by norm_num)]
  push_cast
  ring

/-! ### What `round32` packs -/

/-- An exponent field holds every integer from 0 to 255 (R70). -/
theorem toNat_ofInt_eight {i : Int} (h0 : 0 ≤ i) (h : i < 256) : ((BitVec.ofInt 8 i).toNat : Int) = i := by
  rw [BitVec.toNat_ofInt]
  omega

theorem isNaN32_packRounded {q : Int} (hq : -149 ≤ q) (s : BitVec 1) (n : Nat) :
    isNaN32 (packRounded s n q) = false := by
  unfold packRounded
  split
  · split
    next => simp [isNaN32]
    next hlt =>
      refine isNaN32_pack32_of_exp_ne ?_ s _
      have hE := toNat_ofInt_eight (i := q + 150) (by omega) (by omega)
      exact BitVec.toNat_ne_iff_ne.1 (by rw [BitVec.toNat_ofNat]; omega)
  · exact isNaN32_pack32_of_exp_ne (by decide) s _

/-- Rounding makes no NaN (R78). -/
theorem isNaN32_round32 (s : BitVec 1) (m : Nat) (e : Int) : isNaN32 (round32 s m e) = false := by
  have hq : -149 ≤ roundUnit m e := le_max_right _ _
  simp only [round32]
  split
  · exact isNaN32_pack32_of_exp_ne (by decide) s _
  · split
    · exact isNaN32_packRounded (by omega) s _
    · exact isNaN32_packRounded hq s _

/-- The only NaN that a product can be is the canonical one (R79, R82). -/
theorem fmul32_eq_qnan_of_isNaN32 {p q : Pat32} (h : isNaN32 (fmul32 p q) = true) : fmul32 p q = Config.qnan := by
  simp only [fmul32] at h ⊢
  split at h
  next hn => rw [if_pos hn]
  next hn =>
    rw [if_neg hn]
    split at h
    next hi =>
      rw [if_pos hi]
      split at h
      next hz => rw [if_pos hz]
      next => simp [isNaN32] at h
    next => simp [isNaN32_round32] at h

/-- `packRounded` of a normalized magnitude below the overflow bound keeps its sign, magnitude and unit (R78). -/
theorem packRounded_fields_eq {n : Nat} {q : Int} (h : Normalized n q) (hq : q < 105) (s : BitVec 1) :
    isFinite32 (packRounded s n q) = true ∧ sign32 (packRounded s n q) = s ∧
      mag32 (packRounded s n q) = n ∧ ulp32 (packRounded s n q) = q := by
  obtain ⟨-, hlt, hmin, hnorm⟩ := h
  unfold packRounded
  split
  next hbig =>
    rw [if_neg (by omega)]
    have hE := toNat_ofInt_eight (i := q + 150) (by omega) (by omega)
    have hE0 : BitVec.ofInt 8 (q + 150) ≠ 0#8 := BitVec.toNat_ne_iff_ne.1 (by rw [BitVec.toNat_ofNat]; omega)
    have hE255 : BitVec.ofInt 8 (q + 150) ≠ 255#8 := BitVec.toNat_ne_iff_ne.1 (by rw [BitVec.toNat_ofNat]; omega)
    refine ⟨by simp [isFinite32, hE255], sign32_pack32 _ _ _, ?_, ?_⟩
    · simp only [mag32, exp32_pack32, if_neg hE0, frac32_pack32, BitVec.toNat_ofNat]
      omega
    · simp only [ulp32, exp32_pack32, if_neg hE0, hE]
      omega
  next hsmall =>
    obtain rfl : q = -149 := hnorm.resolve_left hsmall
    refine ⟨by simp [isFinite32], sign32_pack32 _ _ _, ?_, by simp [ulp32]⟩
    simp only [mag32, exp32_pack32, if_pos, frac32_pack32, BitVec.toNat_ofNat]
    omega

end Sys2Proof.Machine
end

section
/-! SUPPORT. The mantissa decoder: the accumulate loop of R118 adds exactly, so that `mantValue` is the fraction
scaled by `2^-23`, with the implicit one in front for a normal category (R119). -/

namespace Sys2Proof.Machine

/-- The binary32 pattern of `n * 2^-23`: the mantissa value that the accumulate loop holds (R118, R119). -/
def mantPattern (n : Nat) : Pat32 := round32 0#1 n (-23)

/-- Below `2^24` the mantissa value is represented exactly (R119). -/
theorem mantPattern_exact {n : Nat} (h : n < 2 ^ 24) :
    sign32 (mantPattern n) = 0#1 ∧ isFinite32 (mantPattern n) = true ∧ val32 (mantPattern n) = (n : ℚ) / 2 ^ 23 := by
  by_cases h0 : n = 0
  · subst h0
    exact ⟨by decide, by decide, by decide +kernel⟩
  · have hP : msb n ≤ 23 := Nat.lt_succ_iff.1 (msb_lt_of_lt h0 h)
    obtain ⟨k, hk⟩ := Nat.le.dest hP
    obtain ⟨hlo, hhi⟩ := (Nat.log2_eq_iff (k := msb n) h0).1 rfl
    have hlo' : 2 ^ 23 ≤ n * 2 ^ k := by
      rw [← hk, pow_add]
      exact Nat.mul_le_mul_right _ hlo
    have hhi' : n * 2 ^ k < 2 ^ 24 := by
      rw [show 24 = msb n + 1 + k by omega, pow_add]
      exact Nat.mul_lt_mul_of_pos_right hhi (Nat.two_pow_pos k)
    have hn : Normalized (n * 2 ^ k) (-23 - k) := ⟨by omega, hhi', by omega, .inl hlo'⟩
    have hpack : mantPattern n = packRounded 0#1 (n * 2 ^ k) (-23 - k) := by
      rw [mantPattern, ← round32_scaled_up hn, sub_add_cancel]
    obtain ⟨hfin, hsign, hmag, hulp⟩ := packRounded_fields_eq hn (by omega) 0#1
    rw [hpack]
    refine ⟨hsign, hfin, ?_⟩
    rw [val32, hsign, hmag, hulp, dyadic, zpow_sub₀ (by norm_num), zpow_natCast]
    push_cast
    field_simp

/-- The pattern of a mantissa value is the only one (R71). -/
theorem eq_mantPattern {p : Pat32} {n : Nat} (hn : n < 2 ^ 24) (hs : sign32 p = 0#1) (hf : isFinite32 p = true)
    (hv : val32 p = (n : ℚ) / 2 ^ 23) : p = mantPattern n := by
  obtain ⟨hsign, hfin, hval⟩ := mantPattern_exact hn
  exact eq_of_sign32_of_val32 hf hfin (hs.trans hsign.symm) (hv.trans hval.symm)

/-- The mantissa value with an implicit one has the fraction as its fraction field (R119). -/
theorem mantPattern_implicit_one (f : BitVec 23) : mantPattern (2 ^ 23 + f.toNat) = pack32 0#1 127#8 f := by
  refine (eq_mantPattern (by have := f.isLt; omega) (sign32_pack32 _ _ _) (by simp [isFinite32]) ?_).symm
  have hE : (127#8 : BitVec 8) ≠ 0#8 := by decide
  simp only [val32, dyadic, sign32_pack32, mag32, ulp32, exp32_pack32, frac32_pack32, if_neg hE]
  norm_num
  ring

/-- The weight of a fraction bit is the mantissa value of that bit alone (R118). -/
theorem weight_eq_mantPattern {i : Nat} (h : i < 23) : weight i = mantPattern (2 ^ i) := by
  have hall : ∀ i < 23, weight i = mantPattern (2 ^ i) := by decide
  exact hall i h

/-- The sum of two mantissa values that stays below 2.0 is exact (R119). -/
theorem fadd32_mantPattern {m n : Nat} (h0 : m + n ≠ 0) (h : m + n < 2 ^ 24) :
    fadd32 (mantPattern m) (mantPattern n) = mantPattern (m + n) := by
  obtain ⟨-, hfm, hvm⟩ := mantPattern_exact (show m < 2 ^ 24 by omega)
  obtain ⟨-, hfn, hvn⟩ := mantPattern_exact (show n < 2 ^ 24 by omega)
  obtain ⟨-, hf, hv⟩ := mantPattern_exact h
  have h0' : ((m + n : Nat) : ℚ) ≠ 0 := by exact_mod_cast h0
  rw [fadd32_of_finite hfm hfn]
  apply faddFinite_exact hf
  · rw [hv]
    positivity
  · rw [hv, hvm, hvn]
    push_cast
    ring

/-- One iteration of the loop adds the weight of a bit that is set (R118). -/
theorem accumulate_mantPattern (f : BitVec 23) {n i : Nat} (hi : i < 23) (h : n + 2 ^ i < 2 ^ 24) :
    accumulate f (mantPattern n) i = mantPattern (n + 2 ^ i * (f.getLsbD i).toNat) := by
  have hpos := Nat.two_pow_pos i
  unfold accumulate
  cases f.getLsbD i with
  | false => simp
  | true => simp [weight_eq_mantPattern hi, fadd32_mantPattern (by omega) h]

/-- After bit `k - 1` the loop has added the low `k` bits of the fraction (R119). -/
theorem foldl_accumulate (f : BitVec 23) {b k : Nat} (hb : b ≤ 2 ^ 23) (hk : k ≤ 23) :
    (List.range k).foldl (accumulate f) (mantPattern b) = mantPattern (b + f.toNat % 2 ^ k) := by
  induction k with
  | zero => simp [Nat.mod_one]
  | succ k ih =>
    have hpow : 2 ^ k ≤ 2 ^ 22 := Nat.pow_le_pow_right (by omega) (by omega)
    have hmod : f.toNat % 2 ^ k < 2 ^ k := Nat.mod_lt _ (Nat.two_pow_pos k)
    rw [List.range_succ, List.foldl_append, ih (by omega), List.foldl_cons, List.foldl_nil,
      accumulate_mantPattern f (by omega) (by omega), Nat.mod_pow_succ, add_assoc,
      BitVec.getLsbD, Nat.toNat_testBit]

/-- The `m` of `m * 2^-23` that the loop starts from: the implicit one, or none at raw exponent 0 (R117). -/
def implicitOne (e : BitVec 8) : Nat := if e = 0#8 then 0 else 2 ^ 23

theorem initialAcc_eq (e : BitVec 8) : initialAcc e = mantPattern (implicitOne e) := by
  have h0 : mantPattern 0 = 0x00000000#32 := by decide
  have h1 : mantPattern (2 ^ 23) = 0x3F800000#32 := by decide
  unfold initialAcc implicitOne
  split
  · exact h0.symm
  · exact h1.symm

/-- The mantissa value in closed form (R119). -/
theorem mantValue_eq {e : BitVec 8} (he : e ≠ 255#8) (f : BitVec 23) :
    mantValue e f = mantPattern (implicitOne e + f.toNat) := by
  have hb : implicitOne e ≤ 2 ^ 23 := by unfold implicitOne; split <;> omega
  rw [mantValue, Config.expSpecial, if_neg he, initialAcc_eq, Config.mantWidth,
    foldl_accumulate f hb le_rfl, Nat.mod_eq_of_lt f.isLt]

end Sys2Proof.Machine
end

section
/-! SUPPORT. A step runs the decoded request (R8, R46), and every instruction has a request word (R45, R51 to R58). -/

namespace Sys2Proof.Machine

/-- With a request standing, a step is the transaction of the decoded instruction (R8, R46). -/
theorem step_of_req {s : State} {w : ReqWord} (h : s.req = some w) : step s = exec (decode w) s := by
  have hf : fetch s = some (decode w) := congrArg (Option.map decode) h
  simp only [step, hf]

/-- With a request standing, a step answers with `fxq` of it (R8). -/
theorem step_eq_answer {s : State} {w : ReqWord} (h : s.req = some w) : step s = .next (s.answer (fxq w)) :=
  (step_of_req h).trans (exec_eq_answer _ s)

end Sys2Proof.Machine

namespace Sys2Proof

/-- The decoder reads back the instruction that the encoder wrote (R45 to R59). -/
theorem decode_encode (i : Instr) : decode (encode i) = i := by
  cases i <;> simp [decode, encode, Instr.ports, Instr.op, BitVec.extractLsb'_setWidth_of_le]

namespace Machine

/-- The responses to request words are the responses of the instructions: every instruction has a word (R8, R62). -/
theorem exists_fxq_iff (r : Rsp) : (∃ w, fxq w = r) ↔ ∃ i, respond i = r := by
  constructor
  · rintro ⟨w, rfl⟩
    exact ⟨decode w, rfl⟩
  · rintro ⟨i, rfl⟩
    exact ⟨encode i, by rw [fxq, decode_encode]⟩

end Machine
end Sys2Proof
end

section
/-! SUPPORT. The three kinds of legal responses, each matched with the operations that give it: raw fields with DECOMP
(R100), decoded fields with DECODE (R110 to R119), single results with RECON (R130) and Q7TD (R145). -/

namespace Sys2Proof.Machine

/-! ### Raw fields: DECOMP -/

/-- DECOMP puts the three fields of the pattern on its ports (R100, R101). -/
theorem decompRsp_eq_fields (p : Pat32) : decompRsp p =
    { y := (sign32 p).setWidth 64, y1 := (exp32 p).setWidth 32, y2 := (frac32 p).setWidth 32, cat := 0, eu := 0 } := by
  have hy : (p >>> 31).setWidth 64 = (sign32 p).setWidth 64 := by
    apply BitVec.eq_of_toNat_eq
    rw [BitVec.toNat_setWidth, BitVec.toNat_setWidth, toNat_sign32, BitVec.toNat_ushiftRight,
      Nat.shiftRight_eq_div_pow]
  have hy1 : (p >>> 23) &&& 0xFF#32 = (exp32 p).setWidth 32 := by
    apply BitVec.eq_of_toNat_eq
    rw [BitVec.toNat_setWidth, toNat_exp32, BitVec.toNat_and, BitVec.toNat_ushiftRight, Nat.shiftRight_eq_div_pow]
    exact (Nat.and_two_pow_sub_one_eq_mod _ 8).trans (by omega)
  have hy2 : p &&& 0x007FFFFF#32 = (frac32 p).setWidth 32 := by
    apply BitVec.eq_of_toNat_eq
    rw [BitVec.toNat_setWidth, toNat_frac32, BitVec.toNat_and]
    exact (Nat.and_two_pow_sub_one_eq_mod _ 23).trans (by omega)
  simp only [decompRsp, Config.signShift, Config.expShift, Config.expMask, Config.fracMask, hy, hy1, hy2]

theorem rawFields_decompRsp (p : Pat32) : RawFields (decompRsp p) := by
  rw [decompRsp_eq_fields]
  have hs := (sign32 p).isLt
  have he := (exp32 p).isLt
  have hf := (frac32 p).isLt
  refine ⟨?_, ?_, ?_, rfl, rfl⟩ <;> simp only [BitVec.toNat_setWidth] <;> omega

theorem exists_decompRsp {r : Rsp} (h : RawFields r) : ∃ p, decompRsp p = r := by
  obtain ⟨y, y1, y2, cat, eu⟩ := r
  obtain ⟨hy, hy1, hy2, hcat, heu⟩ := h
  refine ⟨pack32 (y.setWidth 1) (y1.setWidth 8) (y2.setWidth 23), ?_⟩
  simp only at hy hy1 hy2 hcat heu
  rw [decompRsp_eq_fields, sign32_pack32, exp32_pack32, frac32_pack32, Rsp.mk.injEq]
  refine ⟨?_, ?_, ?_, hcat.symm, heu.symm⟩ <;> apply BitVec.eq_of_toNat_eq <;>
    simp only [BitVec.toNat_setWidth] <;> omega

/-! ### Decoded fields: DECODE -/

/-- The multiplier port holds `1.0` or `-1.0`, one for each sign (R111). -/
theorem multiplier_port_iff (y : BitVec 64) :
    (y = 0x3F800000#64 ∨ y = 0xBF800000#64) ↔ ∃ s, (multiplier s).setWidth 64 = y := by
  have h0 : (multiplier 0#1).setWidth 64 = 0x3F800000#64 := by decide
  have h1 : (multiplier 1#1).setWidth 64 = 0xBF800000#64 := by decide
  constructor
  · rintro (rfl | rfl)
    · exact ⟨_, h0⟩
    · exact ⟨_, h1⟩
  · rintro ⟨s, rfl⟩
    rcases BitVec.eq_zero_or_eq_one s with rfl | rfl
    · exact .inl h0
    · exact .inr h1

/-- DECODE of an infinity or a NaN (R116). -/
theorem decodeRsp_special (s : BitVec 1) (f : BitVec 23) : decodeRsp s 255#8 f =
    { y := (multiplier s).setWidth 64, y1 := 0, y2 := 0, cat := if f = 0#23 then 2#2 else 3#2, eu := 128#9 } := by
  have hcat : (category 255#8 f).code = if f = 0#23 then 2#2 else 3#2 := by
    rw [category, Config.expSpecial, if_pos rfl]
    split <;> rfl
  rw [decodeRsp, hcat]
  rfl

/-- DECODE of a zero or a subnormal (R112 to R119). -/
theorem decodeRsp_subnormal (s : BitVec 1) (f : BitVec 23) : decodeRsp s 0#8 f =
    { y := (multiplier s).setWidth 64, y1 := 0x00800000#32, y2 := mantPattern f.toNat, cat := 1#2,
      eu := BitVec.ofInt 9 (-126) } := by
  have hmant : mantValue 0#8 f = mantPattern f.toNat := by
    rw [mantValue_eq (by decide), implicitOne, if_pos rfl, Nat.zero_add]
  rw [decodeRsp, hmant]
  rfl

/-- DECODE of a normal pattern (R112 to R119). -/
theorem decodeRsp_normal {e : BitVec 8} (h0 : e ≠ 0#8) (h255 : e ≠ 255#8) (s : BitVec 1) (f : BitVec 23) :
    decodeRsp s e f =
      { y := (multiplier s).setWidth 64, y1 := pack32 0#1 e 0#23, y2 := pack32 0#1 127#8 f, cat := 0#2,
        eu := BitVec.ofInt 9 ((e.toNat : Int) - 127) } := by
  have hmant : mantValue e f = pack32 0#1 127#8 f := by
    rw [mantValue_eq h255, implicitOne, if_neg h0, mantPattern_implicit_one]
  have hexp : expValue e = pack32 0#1 e 0#23 := by rw [expValue, Config.expSpecial, if_neg h255, if_neg h0]
  have heu : effExp e = (e.toNat : Int) - 127 := by rw [effExp, if_neg h0]; rfl
  have hcat : category e f = .normal := by rw [category, Config.expSpecial, if_neg h255, if_neg h0]
  rw [decodeRsp, hmant, hexp, heu, hcat]
  rfl

/-- The patterns from `1.0` up to the last one below `2.0` are those of exponent field 127 (R70, R120). -/
theorem one_le_lt_two_iff (p : Pat32) :
    (0x3F800000#32 ≤ p ∧ p ≤ 0x3FFFFFFF#32) ↔ ∃ f, pack32 0#1 127#8 f = p := by
  simp only [BitVec.le_def, BitVec.toNat_ofNat]
  constructor
  · rintro ⟨hlo, hhi⟩
    have hs0 : sign32 p = 0#1 := by
      apply BitVec.eq_of_toNat_eq
      rw [toNat_sign32, BitVec.toNat_ofNat]
      omega
    have he127 : exp32 p = 127#8 := by
      apply BitVec.eq_of_toNat_eq
      rw [toNat_exp32, BitVec.toNat_ofNat]
      omega
    exact ⟨frac32 p, by rw [← hs0, ← he127, pack32_fields]⟩
  · rintro ⟨f, rfl⟩
    have hf := f.isLt
    rw [pack32_toNat]
    simp only [BitVec.toNat_ofNat]
    omega

/-- The effective exponent of a normal pattern fits the 9 bits of its port (R114). -/
theorem toInt_effExp_port (e : BitVec 8) : (BitVec.ofInt 9 ((e.toNat : Int) - 127)).toInt = (e.toNat : Int) - 127 := by
  have he := e.isLt
  rw [BitVec.toInt_ofInt, Int.bmod_def]
  omega

theorem decodedFields_decodeRsp (s : BitVec 1) (e : BitVec 8) (f : BitVec 23) : DecodedFields (decodeRsp s e f) := by
  refine ⟨(multiplier_port_iff _).2 ⟨s, rfl⟩, ?_⟩
  by_cases h255 : e = 255#8
  · subst h255
    rw [decodeRsp_special]
    refine .inr (.inr ⟨?_, rfl, rfl, rfl⟩)
    by_cases hf : f = 0#23
    · exact .inl (if_pos hf)
    · exact .inr (if_neg hf)
  · by_cases h0 : e = 0#8
    · subst h0
      rw [decodeRsp_subnormal]
      exact .inr (.inl ⟨rfl, rfl, rfl, f, mantPattern_exact (by have := f.isLt; omega)⟩)
    · have hlo : e.toNat ≠ 0 := fun hc => h0 (BitVec.eq_of_toNat_eq hc)
      have hhi : e.toNat ≠ 255 := fun hc => h255 (BitVec.eq_of_toNat_eq hc)
      have he := e.isLt
      rw [decodeRsp_normal h0 h255]
      refine .inl ⟨rfl, ?_, ?_, ?_, (one_le_lt_two_iff _).2 ⟨f, rfl⟩⟩ <;> rw [toInt_effExp_port]
      · omega
      · omega
      · rw [pack32_toNat]
        simp

theorem exists_decodeRsp {r : Rsp} (h : DecodedFields r) : ∃ s e f, decodeRsp s e f = r := by
  obtain ⟨y, y1, y2, cat, eu⟩ := r
  obtain ⟨hy, hrest⟩ := h
  obtain ⟨s, hs⟩ := (multiplier_port_iff _).1 hy
  refine ⟨s, ?_⟩
  rcases hrest with ⟨hcat, hlo, hhi, hy1, hy2⟩ | ⟨hcat, heu, hy1, f, hsign, hfin, hval⟩ | ⟨hcat, heu, hy1, hy2⟩
  · obtain ⟨f, hf⟩ := (one_le_lt_two_iff _).1 hy2
    simp only at hs hcat hlo hhi hy1 hf
    have hE := toNat_ofInt_eight (i := eu.toInt + 127) (by omega) (by omega)
    generalize BitVec.ofInt 8 (eu.toInt + 127) = e at hE
    have h0 : e ≠ 0#8 := BitVec.toNat_ne_iff_ne.1 (by rw [BitVec.toNat_ofNat]; omega)
    have h255 : e ≠ 255#8 := BitVec.toNat_ne_iff_ne.1 (by rw [BitVec.toNat_ofNat]; omega)
    have hy1' : pack32 0#1 e 0#23 = y1 := by
      apply BitVec.eq_of_toNat_eq
      rw [pack32_toNat]
      simp only [BitVec.toNat_ofNat]
      omega
    have heu : BitVec.ofInt 9 ((e.toNat : Int) - 127) = eu := by
      rw [hE, add_sub_cancel_right, BitVec.ofInt_toInt]
    exact ⟨e, f, by rw [decodeRsp_normal h0 h255, hs, hy1', hf, hcat, heu]⟩
  · simp only at hs hcat heu hy1 hsign hfin hval
    have hy2 := eq_mantPattern (by have := f.isLt; omega) hsign hfin hval
    have heu' : BitVec.ofInt 9 (-126) = eu := by rw [← heu, BitVec.ofInt_toInt]
    exact ⟨0#8, f, by rw [decodeRsp_subnormal, hs, hy1, hy2, hcat, heu']⟩
  · simp only at hs hcat heu hy1 hy2
    have heu' : 128#9 = eu := by rw [← BitVec.ofInt_toInt (x := eu), heu]; rfl
    obtain ⟨f, hf⟩ : ∃ f : BitVec 23, (if f = 0#23 then 2#2 else 3#2) = cat := by
      rcases hcat with rfl | rfl
      · exact ⟨0#23, rfl⟩
      · exact ⟨1#23, rfl⟩
    exact ⟨255#8, f, by rw [decodeRsp_special, hs, hy1, hy2, hf, heu']; rfl⟩

/-! ### Single results: the other six operations -/

/-- A binary32 result on port `y` is a legal single result unless it is a NaN other than the canonical one (R49, R82). -/
theorem singleResult_pat32 {p : Pat32} (h : isNaN32 p = true → p = Config.qnan) :
    SingleResult (yOnly (p.setWidth 64)) := by
  have hlow : (yOnly (p.setWidth 64)).yLow = p :=
    (BitVec.extractLsb'_setWidth_of_le (by omega)).trans (extractLsb'_whole p)
  refine ⟨rfl, rfl, rfl, rfl, .inl ⟨?_, by rwa [hlow]⟩⟩
  apply BitVec.eq_of_toNat_eq
  have hp := p.isLt
  rw [yOnly, BitVec.extractLsb'_toNat, BitVec.toNat_setWidth, BitVec.toNat_ofNat, Nat.shiftRight_eq_div_pow]
  omega

/-- A byte on port `y` is a legal single result (R49). -/
theorem singleResult_byte (b : Byte) : SingleResult (yOnly (b.setWidth 64)) := by
  have hexp : exp32 (b.setWidth 32) = 0#8 := by
    apply BitVec.eq_of_toNat_eq
    have hb := b.isLt
    rw [toNat_exp32, BitVec.toNat_setWidth, BitVec.toNat_ofNat]
    omega
  have hwide : (b.setWidth 32).setWidth 64 = b.setWidth 64 := by
    apply BitVec.eq_of_toNat_eq
    have hb := b.isLt
    simp only [BitVec.toNat_setWidth]
    omega
  rw [← hwide]
  exact singleResult_pat32 (by simp [isNaN32, hexp])

/-- A port whose upper half is 0 holds the pattern in its lower half (R49). -/
theorem yOnly_yLow {y : BitVec 64} (h : y.extractLsb' 32 32 = 0#32) : (y.extractLsb' 0 32).setWidth 64 = y := by
  have happ : y.extractLsb' 32 32 ++ y.extractLsb' 0 32 = y :=
    (append_adjacent y 0 32 32).trans (extractLsb'_whole y)
  rw [h] at happ
  exact (BitVec.setWidth_eq_append (by omega)).trans happ

theorem isNaN32_pat32OfQ7 (q : Byte) : isNaN32 (pat32OfQ7 q) = false := by revert q; decide

/-- The only NaN that RECON gives is the canonical one (R82, R133). -/
theorem reconstruct_eq_qnan_of_isNaN32 {a b c : Pat32} {k : Category} (h : isNaN32 (reconstruct a b c k) = true) :
    reconstruct a b c k = Config.qnan := by
  cases k with
  | nan => rfl
  | infinity => simp [reconstruct, isNaN32] at h
  | normal => exact fmul32_eq_qnan_of_isNaN32 h
  | subnormal => exact fmul32_eq_qnan_of_isNaN32 h

/-- RECON gives the canonical NaN and every pattern that is no NaN (R131 to R136). -/
theorem exists_reconstruct {p : Pat32} (h : isNaN32 p = true → p = Config.qnan) : ∃ a b c k, reconstruct a b c k = p := by
  cases hn : isNaN32 p with
  | true => exact ⟨0, 0, 0, .nan, (h hn).symm⟩
  | false =>
    rcases isFinite32_or_eq_infinity hn with hfin | hinf
    · refine ⟨p, 0x3F800000#32, 0x3F800000#32, .normal, ?_⟩
      rw [reconstruct, fmul32_one hfin, fmul32_one hfin]
    · exact ⟨p, 0, 0, .infinity, hinf.symm⟩

theorem exists_respond_of_singleResult {r : Rsp} (h : SingleResult r) : ∃ i, respond i = r := by
  obtain ⟨y, y1, y2, cat, eu⟩ := r
  obtain ⟨hy1, hy2, hcat, heu, hy⟩ := h
  simp only at hy1 hy2 hcat heu
  subst hy1 hy2 hcat heu
  rcases hy with ⟨hhigh, hnan⟩ | ⟨q, hq⟩
  · obtain ⟨a, b, c, k, hrec⟩ := exists_reconstruct hnan
    refine ⟨.recon a b c k, ?_⟩
    rw [respond, reconRsp, hrec]
    exact congrArg yOnly (yOnly_yLow hhigh)
  · exact ⟨.q7td q, congrArg yOnly hq.symm⟩

/-! ### The eight operations together -/

/-- Every operation gives a legal response. -/
theorem legalRsp_respond (i : Instr) : LegalRsp (respond i) := by
  cases i with
  | decomp p => exact .inl (rawFields_decompRsp p)
  | decode s e f => exact .inr (.inl (decodedFields_decodeRsp s e f))
  | recon a b c k => exact .inr (.inr (singleResult_pat32 reconstruct_eq_qnan_of_isNaN32))
  | q7fs p => exact .inr (.inr (singleResult_byte _))
  | q7fd p => exact .inr (.inr (singleResult_byte _))
  | q7ts q => exact .inr (.inr (singleResult_pat32 (by simp [isNaN32_pat32OfQ7])))
  | q7td q => exact .inr (.inr ⟨rfl, rfl, rfl, rfl, .inr ⟨q, rfl⟩⟩)
  | unitb b => exact .inr (.inr (singleResult_pat32 fmul32_eq_qnan_of_isNaN32))

/-- Every legal response is one that some operation gives. -/
theorem exists_respond_of_legalRsp {r : Rsp} (h : LegalRsp r) : ∃ i, respond i = r := by
  rcases h with hraw | hdec | hsingle
  · obtain ⟨p, hp⟩ := exists_decompRsp hraw
    exact ⟨.decomp p, hp⟩
  · obtain ⟨s, e, f, hr⟩ := exists_decodeRsp hdec
    exact ⟨.decode s e f, hr⟩
  · exact exists_respond_of_singleResult hsingle

end Sys2Proof.Machine
end

section
/-! PROOFS. The statements of the scope (spec/00_scope.md). -/

namespace Sys2Proof.Proofs

open Sys2Proof Sys2Proof.Machine

/-- Settles O16: a legal response of each kind is given by an operation, and each operation gives one of them. -/
theorem legalResponsesAreTheResponses : Obligations.LegalResponsesAreTheResponses := by
  intro r
  rw [exists_fxq_iff]
  constructor
  · exact exists_respond_of_legalRsp
  · rintro ⟨i, rfl⟩
    exact legalRsp_respond i

/-- Settles O9: every operation answers with its response. -/
theorem everyStandingRequestIsAnswered : Obligations.EveryStandingRequestIsAnswered := by
  constructor
  · intro i s
    exact ⟨_, exec_eq_answer i s⟩
  · intro s w
    exact step_eq_answer (State.present_req s w)

/-- Settles O10: the standing request is fetched and decoded, and its operation is the step. -/
theorem stepRunsDecodedInstruction : Obligations.StepRunsDecodedInstruction := by
  intro s w h
  exact step_of_req h

/-- Settles O12: the answer to the common request is the whole next state. -/
theorem responseDependsOnRequestAlone : Obligations.ResponseDependsOnRequestAlone := by
  intro s t w hs ht
  calc step s = .next (s.answer (fxq w)) := step_eq_answer hs
    _ = .next (t.answer (fxq w)) := by rw [State.answer_eq_answer s t]
    _ = step t := (step_eq_answer ht).symm

end Sys2Proof.Proofs
end

section
/-! SUPPORT. The step with no request standing (R190, log entry 2), and the invariant where no response stands (R19). -/

namespace Sys2Proof.Machine

/-- With no request standing there is no transaction: a step leaves the ports quiet (R190, log entry 2). -/
theorem step_of_no_req {s : State} (h : s.req = none) : step s = .next s.quiet := by
  have hf : fetch s = none := congrArg (Option.map decode) h
  simp only [step, hf]

end Sys2Proof.Machine

namespace Sys2Proof

open Sys2Proof.Machine

/-- Where no response stands, none can be illegal (R19). -/
theorem inv_of_rsp_none {s : State} (h : s.rsp = none) : Inv s := by
  intro r hr
  rw [h] at hr
  cases hr

end Sys2Proof
end

section
/-! PROOFS. The statements of the state (spec/10_state.md). -/

namespace Sys2Proof.Proofs

open Sys2Proof Sys2Proof.Machine

/-- Settles O11: what is held is the unit type, presenting overwrites both ports, and the idle step leaves the ports
quiet. -/
theorem nothingIsHeldBetweenTransactions : Obligations.NothingIsHeldBetweenTransactions := by
  refine ⟨State.held_eq, State.present_rsp, State.present_eq_present, ?_⟩
  intro s h
  exact step_of_no_req h

/-- Settles O14: both ports are absent after reset, and presenting a request leaves nothing of the state before it. -/
theorem resetHoldsNothing : Obligations.ResetHoldsNothing := by
  refine ⟨rfl, rfl, ?_⟩
  intro s w
  rw [State.present_eq_present State.reset s w]

/-- Settles O17: no response stands after reset. -/
theorem resetHasLegalResponse : Obligations.ResetHasLegalResponse :=
  inv_of_rsp_none rfl

end Sys2Proof.Proofs
end

section
/-! PROOFS. The statements of the memory (spec/20_memory.md). -/

namespace Sys2Proof.Proofs

open Sys2Proof Sys2Proof.Machine

/-- Settles O13: presenting a request leaves nothing of the state before it, so that state may be the one the first
transaction gave. -/
theorem repeatedRequestIsIdempotent : Obligations.RepeatedRequestIsIdempotent := by
  intro s t w h
  calc step (t.present w) = step (s.present w) := by rw [State.present_eq_present t s w]
    _ = .next t := h

end Sys2Proof.Proofs
end

section
/-! SUPPORT. Every instruction is well-formed (R62), and every answer keeps the invariant of the ports (R49). -/

namespace Sys2Proof

open Sys2Proof.Machine

/-- No operand pattern is illegal (R62). -/
theorem wellFormed_eq_true (i : Instr) : WellFormed i = true := by cases i <;> rfl

/-- A response that some operation gives is legal on the ports (R49). -/
theorem inv_answer_respond (s : State) (i : Instr) : Inv (s.answer (respond i)) := by
  intro r hr
  rw [State.answer_rsp, Option.some_inj] at hr
  exact hr ▸ legalRsp_respond i

end Sys2Proof
end

section
/-! SUPPORT. What decoding reads: port `op` selects the operation (R46, R50), and the bits the operation names are the
only ones read beside it (R48, R51 to R58). -/

namespace Sys2Proof

/-! ### Decoding by slices of the word (R51 to R58) -/

/-- The low part of a slice is the shorter slice from the same place. -/
theorem extractLsb'_extractLsb'_low {n : Nat} (x : BitVec n) (i : Nat) {u v : Nat} (h : v ≤ u) :
    (x.extractLsb' i u).extractLsb' 0 v = x.extractLsb' i v := by
  apply BitVec.eq_of_getLsbD_eq
  intro j hj
  simp [hj, Nat.lt_of_lt_of_le hj h]

/-- The instruction of operation `o` whose operands stand in `w`, each as the slice of the whole request word where
R51 to R58 put it. -/
def instrOfSlices (w : ReqWord) : Op → Instr
  | .decomp => .decomp (w.extractLsb' 5 32)
  | .decode => .decode (w.extractLsb' 5 1) (w.extractLsb' 69 8) (w.extractLsb' 101 23)
  | .recon => .recon (w.extractLsb' 5 32) (w.extractLsb' 69 32) (w.extractLsb' 101 32)
      (Category.ofCode (w.extractLsb' 3 2))
  | .q7fs => .q7fs (w.extractLsb' 5 32)
  | .q7fd => .q7fd (w.extractLsb' 5 64)
  | .q7ts => .q7ts (w.extractLsb' 5 8)
  | .q7td => .q7td (w.extractLsb' 5 8)
  | .unitb => .unitb (w.extractLsb' 5 8)

/-- Decoding reads port `op` and the operands of the operation it selects, and no other slice (R46, R51 to R58). -/
theorem decode_eq_instrOfSlices (w : ReqWord) : decode w = instrOfSlices w (Op.ofCode (reqOp w)) := by
  unfold decode
  cases Op.ofCode (reqOp w) <;> simp [instrOfSlices, reqA, reqB, reqC, reqK, extractLsb'_extractLsb'_low]

theorem op_instrOfSlices (w : ReqWord) (o : Op) : (instrOfSlices w o).op = o := by cases o <;> rfl

/-! ### The operation (R46, R50) -/

/-- The operation of the decoded instruction is the one that port `op` selects (R46). -/
theorem decode_op (w : ReqWord) : (decode w).op = Op.ofCode (reqOp w) := by
  rw [decode_eq_instrOfSlices, op_instrOfSlices]

/-- Port `op` holds the code of the decoded operation (R50). -/
theorem decode_op_code (w : ReqWord) : (decode w).op.code = reqOp w := by
  rw [decode_op, Op.code_ofCode]

/-- An operation's number on port `op` selects it, and nothing else does (R46, R50). -/
theorem reqOp_eq_code_iff (w : ReqWord) (o : Op) : reqOp w = o.code ↔ (decode w).op = o := by
  constructor
  · intro h
    rw [decode_op, h, Op.ofCode_code]
  · rintro rfl
    exact (decode_op_code w).symm

/-! ### The bits an operation names (R48) -/

/-- Two words that agree under a mask agree on every slice that the mask covers. -/
theorem extractLsb'_eq_of_and_eq {n : Nat} {x y m : BitVec n} (h : x &&& m = y &&& m) {i v : Nat}
    (hm : m.extractLsb' i v = BitVec.allOnes v) : x.extractLsb' i v = y.extractLsb' i v := by
  calc x.extractLsb' i v = (x &&& m).extractLsb' i v := by rw [BitVec.extractLsb'_and, hm, BitVec.and_allOnes]
    _ = (y &&& m).extractLsb' i v := by rw [h]
    _ = y.extractLsb' i v := by rw [BitVec.extractLsb'_and, hm, BitVec.and_allOnes]

/-- Every operation names the bits of its code (R46). -/
theorem namedRequestBits_op (o : Op) : (namedRequestBits o).extractLsb' 0 3 = BitVec.allOnes 3 := by
  cases o <;> decide

/-- Words that agree on the bits an operation names hold the same operands for it (R48). -/
theorem instrOfSlices_congr {w w' : ReqWord} {o : Op} (h : w &&& namedRequestBits o = w' &&& namedRequestBits o) :
    instrOfSlices w o = instrOfSlices w' o := by
  have slice {i v : Nat} := extractLsb'_eq_of_and_eq (i := i) (v := v) h
  cases o with
  | decomp => exact congrArg Instr.decomp (slice (by decide))
  | decode =>
    rw [instrOfSlices, slice (i := 5) (by decide), slice (i := 69) (by decide), slice (i := 101) (by decide)]
    rfl
  | recon =>
    rw [instrOfSlices, slice (i := 5) (by decide), slice (i := 69) (by decide), slice (i := 101) (by decide),
      slice (i := 3) (by decide)]
    rfl
  | q7fs => exact congrArg Instr.q7fs (slice (by decide))
  | q7fd => exact congrArg Instr.q7fd (slice (by decide))
  | q7ts => exact congrArg Instr.q7ts (slice (by decide))
  | q7td => exact congrArg Instr.q7td (slice (by decide))
  | unitb => exact congrArg Instr.unitb (slice (by decide))

/-- Words that agree on the bits their operation names decode to the same instruction (R48). -/
theorem decode_eq_of_named_eq {w w' : ReqWord}
    (h : w &&& namedRequestBits (decode w).op = w' &&& namedRequestBits (decode w).op) : decode w = decode w' := by
  have hcode : reqOp w = reqOp w' := extractLsb'_eq_of_and_eq h (namedRequestBits_op _)
  rw [decode_op] at h
  calc decode w = instrOfSlices w (Op.ofCode (reqOp w)) := decode_eq_instrOfSlices w
    _ = instrOfSlices w' (Op.ofCode (reqOp w)) := instrOfSlices_congr h
    _ = instrOfSlices w' (Op.ofCode (reqOp w')) := by rw [hcode]
    _ = decode w' := (decode_eq_instrOfSlices w').symm

end Sys2Proof
end

section
/-! SUPPORT. The ports of a response word (R47), the bits each operation sets on them (R49), and the category (R59). -/

namespace Sys2Proof.Machine

/-! ### The ports of a response word (R47) -/

theorem Rsp.toWord_y (r : Rsp) : r.toWord.extractLsb' 0 64 = r.y :=
  (extractLsb'_append_low (r.eu ++ r.cat ++ r.y2 ++ r.y1) r.y 0 64 (by omega)).trans (extractLsb'_whole _)

theorem Rsp.toWord_y1 (r : Rsp) : r.toWord.extractLsb' 64 32 = r.y1 :=
  (extractLsb'_append_high (r.eu ++ r.cat ++ r.y2 ++ r.y1) r.y 0 32).trans
    ((extractLsb'_append_low (r.eu ++ r.cat ++ r.y2) r.y1 0 32 (by omega)).trans (extractLsb'_whole _))

theorem Rsp.toWord_y2 (r : Rsp) : r.toWord.extractLsb' 96 32 = r.y2 :=
  (extractLsb'_append_high (r.eu ++ r.cat ++ r.y2 ++ r.y1) r.y 32 32).trans
    ((extractLsb'_append_high (r.eu ++ r.cat ++ r.y2) r.y1 0 32).trans
      ((extractLsb'_append_low (r.eu ++ r.cat) r.y2 0 32 (by omega)).trans (extractLsb'_whole _)))

theorem Rsp.toWord_cat (r : Rsp) : r.toWord.extractLsb' 128 2 = r.cat :=
  (extractLsb'_append_high (r.eu ++ r.cat ++ r.y2 ++ r.y1) r.y 64 2).trans
    ((extractLsb'_append_high (r.eu ++ r.cat ++ r.y2) r.y1 32 2).trans
      ((extractLsb'_append_high (r.eu ++ r.cat) r.y2 0 2).trans
        ((extractLsb'_append_low r.eu r.cat 0 2 (by omega)).trans (extractLsb'_whole _))))

theorem Rsp.toWord_eu (r : Rsp) : r.toWord.extractLsb' 130 9 = r.eu :=
  (extractLsb'_append_high (r.eu ++ r.cat ++ r.y2 ++ r.y1) r.y 66 9).trans
    ((extractLsb'_append_high (r.eu ++ r.cat ++ r.y2) r.y1 34 9).trans
      ((extractLsb'_append_high (r.eu ++ r.cat) r.y2 2 9).trans
        ((extractLsb'_append_high r.eu r.cat 0 9).trans (extractLsb'_whole _))))

/-! ### The bits an operation sets, port by port (R49, R51 to R58) -/

/-- The ones of `v` low bits on a port of `n` bits. -/
def lowOnes (n v : Nat) : BitVec n := (BitVec.allOnes v).setWidth n

/-- A result of `v` bits sets none of the other bits of its port. -/
theorem setWidth_and_not_lowOnes {n v : Nat} (x : BitVec v) : x.setWidth n &&& ~~~ lowOnes n v = 0 := by
  apply BitVec.eq_of_getLsbD_eq
  intro i hi
  by_cases h : i < v
  · simp [lowOnes, hi, h]
  · simp [BitVec.getLsbD_of_ge x i (Nat.le_of_not_lt h)]

/-- The bits each operation sets, as masks of the response ports (R51 to R58). -/
def resultPorts : Op → Rsp
  | .decomp => { y := lowOnes 64 1, y1 := lowOnes 32 8, y2 := lowOnes 32 23, cat := 0, eu := 0 }
  | .decode => { y := lowOnes 64 32, y1 := lowOnes 32 32, y2 := lowOnes 32 32, cat := lowOnes 2 2, eu := lowOnes 9 9 }
  | .recon => yOnly (lowOnes 64 32)
  | .q7fs => yOnly (lowOnes 64 8)
  | .q7fd => yOnly (lowOnes 64 8)
  | .q7ts => yOnly (lowOnes 64 32)
  | .q7td => yOnly (lowOnes 64 64)
  | .unitb => yOnly (lowOnes 64 32)

theorem toWord_resultPorts (o : Op) : (resultPorts o).toWord = resultBits o := by cases o <;> decide

/-- A concatenation has no bit outside a mask when neither part has. -/
theorem append_and_not_eq_zero {a b : Nat} {x m : BitVec a} {y n : BitVec b} (hx : x &&& ~~~ m = 0)
    (hy : y &&& ~~~ n = 0) : (x ++ y) &&& ~~~ (m ++ n) = 0 := by
  rw [BitVec.not_append, BitVec.and_append, hx, hy]
  exact BitVec.zero_append_zero

/-- A response word has no bit outside a mask when none of its ports has. -/
theorem toWord_and_not_eq_zero {r m : Rsp} (hy : r.y &&& ~~~ m.y = 0) (hy1 : r.y1 &&& ~~~ m.y1 = 0)
    (hy2 : r.y2 &&& ~~~ m.y2 = 0) (hcat : r.cat &&& ~~~ m.cat = 0) (heu : r.eu &&& ~~~ m.eu = 0) :
    r.toWord &&& ~~~ m.toWord = 0 :=
  append_and_not_eq_zero (append_and_not_eq_zero (append_and_not_eq_zero (append_and_not_eq_zero heu hcat) hy2) hy1) hy

/-- A single result of `v` bits sets the low `v` bits of port `y` and no others. -/
theorem toWord_yOnly_and_not {v : Nat} (x : BitVec v) :
    (yOnly (x.setWidth 64)).toWord &&& ~~~ (yOnly (lowOnes 64 v)).toWord = 0 :=
  toWord_and_not_eq_zero (setWidth_and_not_lowOnes x) BitVec.zero_and BitVec.zero_and BitVec.zero_and BitVec.zero_and

/-- Every operation leaves the response bits 0 that it does not set (R49). -/
theorem toWord_respond_and_not (i : Instr) : (respond i).toWord &&& ~~~ (resultPorts i.op).toWord = 0 := by
  cases i with
  | decomp p =>
    rw [respond, decompRsp_eq_fields]
    exact toWord_and_not_eq_zero (setWidth_and_not_lowOnes _) (setWidth_and_not_lowOnes _) (setWidth_and_not_lowOnes _)
      BitVec.zero_and BitVec.zero_and
  | decode s e f =>
    have whole {n : Nat} (x : BitVec n) : x &&& ~~~ lowOnes n n = 0 := by simp [lowOnes]
    exact toWord_and_not_eq_zero (setWidth_and_not_lowOnes _) (whole _) (whole _) (whole _) (whole _)
  | recon a b c k => exact toWord_yOnly_and_not _
  | q7fs p => exact toWord_yOnly_and_not _
  | q7fd p => exact toWord_yOnly_and_not _
  | q7ts q => exact toWord_yOnly_and_not _
  | q7td q => exact toWord_yOnly_and_not (pat64OfQ7 q)
  | unitb b => exact toWord_yOnly_and_not _

/-! ### The category of a decoded float (R59, R112) -/

/-- Port `cat` of DECODE holds the code of the category, which names it (R59). -/
theorem respond_decode_cat_iff (S : BitVec 1) (E : BitVec 8) (F : BitVec 23) (c : Category) :
    (respond (.decode S E F)).cat = c.code ↔ category E F = c := by
  constructor
  · intro h
    have h : Category.ofCode (category E F).code = Category.ofCode c.code := congrArg Category.ofCode h
    rwa [Category.ofCode_code_eq, Category.ofCode_code_eq] at h
  · rintro rfl
    rfl

/-- The raw fields of each category (R112). -/
theorem category_eq_iff (E : BitVec 8) (F : BitVec 23) :
    (category E F = .normal ↔ E ≠ 0#8 ∧ E ≠ 255#8) ∧ (category E F = .subnormal ↔ E = 0#8) ∧
    (category E F = .infinity ↔ E = 255#8 ∧ F = 0#23) ∧ (category E F = .nan ↔ E = 255#8 ∧ F ≠ 0#23) := by
  unfold category Config.expSpecial
  by_cases h255 : E = 255#8
  · by_cases hF : F = 0#23 <;> simp [h255, hF]
  · by_cases h0 : E = 0#8 <;> simp [h255, h0]

/-- The raw exponents of normal patterns are those between the two reserved ones (R59, R72). -/
theorem normal_exponent_iff (E : BitVec 8) : (1 ≤ E.toNat ∧ E.toNat ≤ 254) ↔ E ≠ 0#8 ∧ E ≠ 255#8 := by
  have hE := E.isLt
  rw [← BitVec.toNat_ne_iff_ne, ← BitVec.toNat_ne_iff_ne, BitVec.toNat_ofNat, BitVec.toNat_ofNat]
  omega

end Sys2Proof.Machine
end

section
/-! PROOFS. The statements of the encoding (spec/30_encoding.md), and the invariant of the responses. -/

namespace Sys2Proof.Proofs

open Sys2Proof Sys2Proof.Machine

/-- Settles O6: each field of the canonical word is read back from the place it was written to. -/
theorem decodeOfEncodeIsIdentity : Obligations.DecodeOfEncodeIsIdentity := by
  intro i
  exact ⟨wellFormed_eq_true i, decode_encode i⟩

/-- Settles O15: the idle step leaves no response, and the answer to a request is one its operation gives. -/
theorem stepKeepsLegalResponse : Obligations.StepKeepsLegalResponse := by
  intro s t _ hstep
  rcases step_cases hstep with ⟨-, rfl⟩ | ⟨w, -, rfl⟩
  · exact inv_of_rsp_none (State.quiet_rsp s)
  · exact inv_answer_respond s (decode w)

/-- Settles O3: port `op` holds the decoded operation's number, and each number selects its operation. -/
theorem operationCodeSelectsOperation : Obligations.OperationCodeSelectsOperation := by
  intro w
  have selects := reqOp_eq_code_iff w
  exact ⟨decode_op_code w, selects .decomp, selects .decode, selects .recon, selects .q7fs, selects .q7fd,
    selects .q7ts, selects .q7td, selects .unitb⟩

/-- Settles O4: decoding reads only named slices, and the response is that of the decoded instruction. -/
theorem ignoredRequestBitsChangeNothing : Obligations.IgnoredRequestBitsChangeNothing := by
  intro w w' h
  have hdec := decode_eq_of_named_eq h
  exact ⟨hdec, congrArg respond hdec⟩

/-- Settles O5: each result is a narrow value on its port, zero-extended, and each other port is 0. -/
theorem unsetResponseBitsAreZero : Obligations.UnsetResponseBitsAreZero := by
  intro w
  rw [← toWord_resultPorts]
  exact toWord_respond_and_not (decode w)

/-- Settles O1: each port is read back from its place in the word. -/
theorem requestWordIsPortConcatenation : Obligations.RequestWordIsPortConcatenation := by
  intro p
  exact ⟨rfl, reqOp_toWord p, reqK_toWord p, reqA_toWord p, reqB_toWord p, reqC_toWord p⟩

/-- Settles O2: each port is read back from its place in the word. -/
theorem responseWordIsPortConcatenation : Obligations.ResponseWordIsPortConcatenation := by
  intro r
  exact ⟨rfl, Rsp.toWord_y r, Rsp.toWord_y1 r, Rsp.toWord_y2 r, Rsp.toWord_cat r, Rsp.toWord_eu r⟩

/-- Settles O7: port `cat` names the category, and the category is a case split on the raw fields. -/
theorem categoryCodes : Obligations.CategoryCodes := by
  refine ⟨⟨rfl, rfl, rfl, rfl⟩, Category.ofCode_code_eq, Category.code_ofCode_eq, ?_⟩
  intro S E F
  have codes := respond_decode_cat_iff S E F
  obtain ⟨hnormal, hsubnormal, hinfinity, hnan⟩ := category_eq_iff E F
  rw [normal_exponent_iff]
  exact ⟨(codes .normal).trans hnormal, (codes .subnormal).trans hsubnormal, (codes .infinity).trans hinfinity,
    (codes .nan).trans hnan⟩

/-- Settles O8: in each word, the slices of its operation evaluate to the instruction's operands. -/
theorem specWordsDecode : Obligations.SpecWordsDecode := by
  refine ⟨?_, ?_, ?_, ?_, ?_, ?_, ?_, ?_⟩ <;> decide

end Sys2Proof.Proofs
end

section
/-! SUPPORT. The fields and values of float patterns: classes (R72), the values by `1.f` and `0.f` (R71, R75), and the
patterns whose fraction is an integer shifted up to its implicit one (R77, R145, R146). -/

namespace Sys2Proof.Machine

/-! ### Fields of binary32 patterns (R70, R72) -/

theorem sign32_eq_one_iff (p : Pat32) : sign32 p = 1#1 ↔ p.getLsbD 31 = true := by
  rw [← BitVec.toNat_inj, toNat_sign32, BitVec.getLsbD, Nat.testBit_eq_decide_div_mod_eq, decide_eq_true_iff,
    BitVec.toNat_ofNat]
  have hp := p.isLt
  omega

theorem sign64_eq_one_iff (p : Pat64) : sign64 p = 1#1 ↔ p.getLsbD 63 = true := by
  rw [← BitVec.toNat_inj, sign64, BitVec.extractLsb'_toNat, Nat.shiftRight_eq_div_pow, BitVec.getLsbD,
    Nat.testBit_eq_decide_div_mod_eq, decide_eq_true_iff, BitVec.toNat_ofNat]

theorem isFinite32_iff (p : Pat32) : isFinite32 p = true ↔ exp32 p ≠ 255#8 := by simp [isFinite32]

/-- A pattern has one exponent and one fraction, so the five classes are the cases of their fields (R72). -/
theorem classes_count (p : Pat32) :
    [isNaN32 p, isInf32 p, isZero32 p, isSub32 p, isNormal32 p].count true = 1 := by
  have hnormal : isNormal32 p = decide (exp32 p ≠ 0#8 ∧ exp32 p ≠ 255#8) := by
    simp only [isNormal32, normal_exponent_iff]
  rw [hnormal]
  by_cases h255 : exp32 p = 255#8
  · by_cases hf : frac32 p = 0#23 <;> simp [isNaN32, isInf32, isZero32, isSub32, h255, hf]
  · by_cases h0 : exp32 p = 0#8
    · by_cases hf : frac32 p = 0#23 <;> simp [isNaN32, isInf32, isZero32, isSub32, h0, hf]
    · simp [isNaN32, isInf32, isZero32, isSub32, h0, h255]

theorem mag32_lt (p : Pat32) : mag32 p < 2 ^ 24 := by
  have hf := (frac32 p).isLt
  unfold mag32
  split <;> omega

theorem ulp32_ge (p : Pat32) : -149 ≤ ulp32 p := by
  unfold ulp32
  split
  next => omega
  next h0 =>
    have hE : (exp32 p).toNat ≠ 0 := fun hc => h0 (BitVec.eq_of_toNat_eq hc)
    omega

theorem ulp32_le {p : Pat32} (h : isFinite32 p = true) : ulp32 p ≤ 104 := by
  have h255 : (exp32 p).toNat ≠ 255 := fun hc => (isFinite32_iff p).1 h (BitVec.eq_of_toNat_eq hc)
  have hE := (exp32 p).isLt
  unfold ulp32
  split <;> omega

theorem mag32_eq_zero_iff (p : Pat32) : mag32 p = 0 ↔ isZero32 p = true := by
  by_cases h0 : exp32 p = 0#8
  · simp [mag32, isZero32, h0, ← BitVec.toNat_inj]
  · simp [mag32, isZero32, h0]

/-- The two zeros (R71, R72). -/
theorem isZero32_iff (p : Pat32) : isZero32 p = true ↔ p = 0x00000000#32 ∨ p = 0x80000000#32 := by
  constructor
  · intro h
    obtain ⟨he, hf⟩ : exp32 p = 0#8 ∧ frac32 p = 0#23 := by simpa [isZero32] using h
    rw [← pack32_fields p, he, hf]
    rcases BitVec.eq_zero_or_eq_one (sign32 p) with hs | hs <;> rw [hs]
    · exact .inl (by decide)
    · exact .inr (by decide)
  · rintro (rfl | rfl) <;> decide

/-! ### Values (R71, R75) -/

/-- The factor `(-1)^s` of a value (R71). -/
def signFactor (s : BitVec 1) : ℚ := if s = 1#1 then -1 else 1

theorem dyadic_eq (s : BitVec 1) (m : Nat) (e : Int) : dyadic s m e = signFactor s * ((m : ℚ) * (2 : ℚ) ^ e) :=
  mul_assoc _ _ _

theorem signFactor_mul_self (s : BitVec 1) : signFactor s * signFactor s = 1 := by
  unfold signFactor
  split <;> norm_num

theorem abs_signFactor (s : BitVec 1) : |signFactor s| = 1 := by
  unfold signFactor
  split <;> norm_num

theorem signFactor_xor (s t : BitVec 1) : signFactor (s ^^^ t) = signFactor s * signFactor t := by
  rcases BitVec.eq_zero_or_eq_one s with rfl | rfl <;> rcases BitVec.eq_zero_or_eq_one t with rfl | rfl <;>
    simp [signFactor]

theorem abs_dyadic (s : BitVec 1) (m : Nat) (e : Int) : |dyadic s m e| = (m : ℚ) * (2 : ℚ) ^ e := by
  rw [dyadic_eq, abs_mul, abs_signFactor, one_mul, abs_of_nonneg (by positivity)]

theorem dyadic_zero (s : BitVec 1) (e : Int) : dyadic s 0 e = 0 := by simp [dyadic]

/-- Equal magnitudes with equal signs are equal numbers. -/
theorem dyadic_congr (s : BitVec 1) {m n : Nat} {e f : Int}
    (h : (m : ℚ) * (2 : ℚ) ^ e = (n : ℚ) * (2 : ℚ) ^ f) : dyadic s m e = dyadic s n f := by rw [dyadic_eq, dyadic_eq, h]

theorem val32_eq_zero_iff (p : Pat32) : val32 p = 0 ↔ isZero32 p = true := by
  rw [← mag32_eq_zero_iff, ← abs_eq_zero, abs_val32]
  simp [zpow_ne_zero]

/-- An integer of `w` fraction bits, written as a fraction (R71, R75). -/
theorem mul_two_zpow_sub (x : ℚ) (k : Int) (w : Nat) : x * (2 : ℚ) ^ (k - w) = (2 : ℚ) ^ k * (x / 2 ^ w) := by
  rw [zpow_sub₀ (by norm_num), zpow_natCast]
  ring

/-- An integer of `w` fraction bits with its implicit one, written as `1.f` (R71, R75). -/
theorem implicit_one_mul_two_zpow_sub (x : ℚ) (k : Int) (w : Nat) :
    (2 ^ w + x) * (2 : ℚ) ^ (k - w) = (2 : ℚ) ^ k * (1 + x / 2 ^ w) := by
  rw [mul_two_zpow_sub, add_div, div_self (by positivity)]

/-- The value of a pattern whose raw exponent is 0, by its fraction `0.f` (R71). -/
theorem val32_of_exp_zero {p : Pat32} (h : exp32 p = 0#8) :
    val32 p = signFactor (sign32 p) * ((2 : ℚ) ^ (-126 : Int) * (((frac32 p).toNat : ℚ) / 2 ^ 23)) := by
  rw [val32, dyadic_eq, mag32, ulp32, if_pos h, if_pos h, ← mul_two_zpow_sub]
  rfl

/-- The value of a pattern whose raw exponent is not 0, by `1.f` (R71). -/
theorem val32_of_exp_ne_zero {p : Pat32} (h : exp32 p ≠ 0#8) :
    val32 p = signFactor (sign32 p) *
      ((2 : ℚ) ^ (((exp32 p).toNat : Int) - 127) * (1 + ((frac32 p).toNat : ℚ) / 2 ^ 23)) := by
  rw [val32, dyadic_eq, mag32, ulp32, if_neg h, if_neg h, ← implicit_one_mul_two_zpow_sub, sub_sub]
  push_cast
  norm_num

theorem val64_of_exp_zero {p : Pat64} (h : exp64 p = 0#11) :
    val64 p = signFactor (sign64 p) * ((2 : ℚ) ^ (-1022 : Int) * (((frac64 p).toNat : ℚ) / 2 ^ 52)) := by
  rw [val64, dyadic_eq, mag64, ulp64, if_pos h, if_pos h, ← mul_two_zpow_sub]
  rfl

theorem val64_of_exp_ne_zero {p : Pat64} (h : exp64 p ≠ 0#11) :
    val64 p = signFactor (sign64 p) *
      ((2 : ℚ) ^ (((exp64 p).toNat : Int) - 1023) * (1 + ((frac64 p).toNat : ℚ) / 2 ^ 52)) := by
  rw [val64, dyadic_eq, mag64, ulp64, if_neg h, if_neg h, ← implicit_one_mul_two_zpow_sub, sub_sub]
  push_cast
  norm_num

/-- No finite pattern is above the largest one, `(2^24 - 1) * 2^104` (R73). -/
theorem abs_val32_le {p : Pat32} (h : isFinite32 p = true) : |val32 p| ≤ (2 ^ 24 - 1) * (2 : ℚ) ^ (104 : Int) := by
  have hm : (mag32 p : ℚ) ≤ 2 ^ 24 - 1 := by
    have hlt := mag32_lt p
    rw [le_sub_iff_add_le]
    exact_mod_cast hlt
  have hu : (2 : ℚ) ^ ulp32 p ≤ (2 : ℚ) ^ (104 : Int) := zpow_le_zpow_right₀ (by norm_num) (ulp32_le h)
  rw [abs_val32]
  exact mul_le_mul hm hu (by positivity) (by norm_num)

/-- The pattern `(k + 127) << 23` has the exponent field `k + 127` and nothing else (R73). -/
theorem ofInt_shiftLeft_eq_pack32 {k : Int} (hlo : -127 ≤ k) (hhi : k ≤ 128) :
    BitVec.ofInt 32 (k + 127) <<< 23 = pack32 0#1 (BitVec.ofInt 8 (k + 127)) 0#23 := by
  have hE := toNat_ofInt_eight (i := k + 127) (by omega) (by omega)
  apply BitVec.eq_of_toNat_eq
  rw [pack32_toNat, BitVec.toNat_shiftLeft, BitVec.toNat_ofInt, Nat.shiftLeft_eq]
  simp only [BitVec.toNat_ofNat]
  omega

/-- `(k + 127) << 23` is `2^k` (R73). -/
theorem pattern_of_two_zpow {k : Int} (hlo : -126 ≤ k) (hhi : k ≤ 127) :
    isFinite32 (BitVec.ofInt 32 (k + 127) <<< 23) = true ∧
      val32 (BitVec.ofInt 32 (k + 127) <<< 23) = (2 : ℚ) ^ k := by
  have hE := toNat_ofInt_eight (i := k + 127) (by omega) (by omega)
  rw [ofInt_shiftLeft_eq_pack32 (by omega) (by omega)]
  generalize BitVec.ofInt 8 (k + 127) = e at hE
  obtain ⟨h0, h255⟩ := (normal_exponent_iff e).1 (by omega)
  refine ⟨by simp [isFinite32, h255], ?_⟩
  rw [val32_of_exp_ne_zero (by rwa [exp32_pack32]), exp32_pack32, hE]
  simp [signFactor]

/-! ### An integer shifted up to its implicit one (R77, R145, R146) -/

/-- With the implicit one in front, the shifted fraction is the integer itself, scaled. -/
theorem implicit_one_add_shifted {M w : Nat} (h0 : M ≠ 0) (hw : msb M ≤ w) :
    2 ^ w + (M - 2 ^ msb M) <<< (w - msb M) = M * 2 ^ (w - msb M) := by
  have hle : 2 ^ msb M ≤ M := ((Nat.log2_eq_iff h0).1 rfl).1
  have hpow : 2 ^ w = 2 ^ msb M * 2 ^ (w - msb M) := by rw [← pow_add, Nat.add_sub_cancel' hw]
  rw [Nat.shiftLeft_eq, hpow, ← Nat.add_mul, Nat.add_sub_cancel' hle]

/-- The shifted fraction fits a field of `w` bits: the implicit one is outside. -/
theorem shifted_lt {M w : Nat} (h0 : M ≠ 0) (hw : msb M ≤ w) : (M - 2 ^ msb M) <<< (w - msb M) < 2 ^ w := by
  have hadd := implicit_one_add_shifted h0 hw
  have hlt : M < 2 ^ (msb M + 1) := ((Nat.log2_eq_iff h0).1 rfl).2
  have hmul : M * 2 ^ (w - msb M) < 2 ^ (msb M + 1) * 2 ^ (w - msb M) :=
    Nat.mul_lt_mul_of_pos_right hlt (Nat.two_pow_pos _)
  rw [← pow_add, show msb M + 1 + (w - msb M) = w + 1 by omega, pow_succ] at hmul
  omega

/-- The binary32 pattern of the integer `M` with its implicit one at exponent field `b + msb M` (R146). -/
def shifted32 (s : BitVec 1) (M b : Nat) : Pat32 :=
  pack32 s (BitVec.ofNat 8 (b + msb M)) (BitVec.ofNat 23 ((M - 2 ^ msb M) <<< (23 - msb M)))

/-- The 64-bit pattern of the integer `M` with its implicit one at exponent field `b + msb M` (R77, R145). -/
def shifted64 (s : BitVec 1) (M b : Nat) : Pat64 :=
  pack64 s (BitVec.ofNat 11 (b + msb M)) (BitVec.ofNat 52 ((M - 2 ^ msb M) <<< (52 - msb M)))

theorem shifted32_fields {M b : Nat} (h0 : M ≠ 0) (hw : msb M ≤ 23) (hb : b + msb M < 255) (s : BitVec 1) :
    sign32 (shifted32 s M b) = s ∧ (exp32 (shifted32 s M b)).toNat = b + msb M ∧
      (frac32 (shifted32 s M b)).toNat = (M - 2 ^ msb M) <<< (23 - msb M) := by
  rw [shifted32, sign32_pack32, exp32_pack32, frac32_pack32, BitVec.toNat_ofNat, BitVec.toNat_ofNat]
  exact ⟨rfl, Nat.mod_eq_of_lt (by omega), Nat.mod_eq_of_lt (shifted_lt h0 hw)⟩

theorem shifted64_fields {M b : Nat} (h0 : M ≠ 0) (hw : msb M ≤ 52) (hb : b + msb M < 2047) (s : BitVec 1) :
    sign64 (shifted64 s M b) = s ∧ (exp64 (shifted64 s M b)).toNat = b + msb M ∧
      (frac64 (shifted64 s M b)).toNat = (M - 2 ^ msb M) <<< (52 - msb M) := by
  rw [shifted64, sign64_pack64, exp64_pack64, frac64_pack64, BitVec.toNat_ofNat, BitVec.toNat_ofNat]
  exact ⟨rfl, Nat.mod_eq_of_lt (by omega), Nat.mod_eq_of_lt (shifted_lt h0 hw)⟩

/-- Shifting up to the implicit one keeps the integer: the unit goes down as far. -/
theorem shifted_magnitude {M w : Nat} (h0 : M ≠ 0) (hw : msb M ≤ w) (u : Int) :
    ((2 ^ w + (M - 2 ^ msb M) <<< (w - msb M) : Nat) : ℚ) * (2 : ℚ) ^ (u + msb M - w)
      = (M : ℚ) * (2 : ℚ) ^ u := by
  obtain ⟨k, hk⟩ := Nat.le.dest hw
  rw [implicit_one_add_shifted h0 hw, show w - msb M = k by omega, show u + msb M - w = u - (k : Int) by omega,
    zpow_sub₀ (by norm_num), zpow_natCast]
  push_cast
  field_simp

theorem val32_shifted32 {M b : Nat} (h0 : M ≠ 0) (hw : msb M ≤ 23) (hb0 : 0 < b) (hb : b + msb M < 255)
    (s : BitVec 1) : val32 (shifted32 s M b) = dyadic s M ((b : Int) - 127) := by
  obtain ⟨hs, he, hf⟩ := shifted32_fields h0 hw hb s
  have hne : exp32 (shifted32 s M b) ≠ 0#8 := BitVec.toNat_ne_iff_ne.1 (by rw [he, BitVec.toNat_ofNat]; omega)
  rw [val32, hs, mag32, ulp32, if_neg hne, if_neg hne, he, hf]
  apply dyadic_congr
  rw [← shifted_magnitude h0 hw]
  congr 2
  push_cast
  ring

theorem val64_shifted64 {M b : Nat} (h0 : M ≠ 0) (hw : msb M ≤ 52) (hb0 : 0 < b) (hb : b + msb M < 2047)
    (s : BitVec 1) : val64 (shifted64 s M b) = dyadic s M ((b : Int) - 1023) := by
  obtain ⟨hs, he, hf⟩ := shifted64_fields h0 hw hb s
  have hne : exp64 (shifted64 s M b) ≠ 0#11 := BitVec.toNat_ne_iff_ne.1 (by rw [he, BitVec.toNat_ofNat]; omega)
  rw [val64, hs, mag64, ulp64, if_neg hne, if_neg hne, he, hf]
  apply dyadic_congr
  rw [← shifted_magnitude h0 hw]
  congr 2
  push_cast
  ring

end Sys2Proof.Machine
end

section
/-! SUPPORT. Widening (R77) and the dequantizers (R145, R146): each is the integer shifted up to its implicit one, or a
zero, or a special pattern. -/

namespace Sys2Proof.Machine

/-! ### Widening, class by class (R77) -/

theorem widen_infinite {p : Pat32} (he : exp32 p = 255#8) (hf : frac32 p = 0#23) :
    widen p = pack64 (sign32 p) 2047#11 0#52 := by
  rw [widen, Config.expSpecial, if_pos he, if_pos hf]

theorem widen_nan {p : Pat32} (he : exp32 p = 255#8) (hf : frac32 p ≠ 0#23) :
    widen p = pack64 (sign32 p) 2047#11 (nonZeroFraction (Config.widenNaNFraction p)) := by
  rw [widen, Config.expSpecial, if_pos he, if_neg hf]

theorem widen_zero {p : Pat32} (he : exp32 p = 0#8) (hf : frac32 p = 0#23) :
    widen p = pack64 (sign32 p) 0#11 0#52 := by
  rw [widen, Config.expSpecial, if_neg (by rw [he]; decide), if_pos he, if_pos hf]

theorem widen_subnormal {p : Pat32} (he : exp32 p = 0#8) (hf : frac32 p ≠ 0#23) :
    widen p = shifted64 (sign32 p) (frac32 p).toNat 874 := by
  rw [widen, Config.expSpecial, if_neg (by rw [he]; decide), if_pos he, if_neg hf]
  rfl

theorem widen_normal {p : Pat32} (h0 : exp32 p ≠ 0#8) (h255 : exp32 p ≠ 255#8) :
    widen p = pack64 (sign32 p) (BitVec.ofNat 11 ((exp32 p).toNat + 896))
      (BitVec.ofNat 52 ((frac32 p).toNat <<< 29)) := by
  rw [widen, Config.expSpecial, if_neg h255, if_neg h0]

theorem sign64_widen (p : Pat32) : sign64 (widen p) = sign32 p := by
  by_cases h255 : exp32 p = 255#8
  · by_cases hf : frac32 p = 0#23
    · rw [widen_infinite h255 hf, sign64_pack64]
    · rw [widen_nan h255 hf, sign64_pack64]
  · by_cases h0 : exp32 p = 0#8
    · by_cases hf : frac32 p = 0#23
      · rw [widen_zero h0 hf, sign64_pack64]
      · rw [widen_subnormal h0 hf, shifted64, sign64_pack64]
    · rw [widen_normal h0 h255, sign64_pack64]

/-- A subnormal pattern gets an implicit one (R77). -/
theorem widen_subnormal_value {p : Pat32} (he : exp32 p = 0#8) (hf : frac32 p ≠ 0#23) :
    exp64 (widen p) ≠ 2047#11 ∧ val64 (widen p) = val32 p := by
  have hM : (frac32 p).toNat ≠ 0 := fun hc => hf (BitVec.eq_of_toNat_eq hc)
  have hP : msb (frac32 p).toNat < 23 := msb_lt_of_lt hM (frac32 p).isLt
  obtain ⟨-, hexp, -⟩ := shifted64_fields (b := 874) hM (by omega) (by omega) (sign32 p)
  rw [widen_subnormal he hf, val64_shifted64 hM (by omega) (by omega) (by omega), val32, mag32, ulp32, if_pos he,
    if_pos he]
  exact ⟨BitVec.toNat_ne_iff_ne.1 (by rw [hexp, BitVec.toNat_ofNat]; omega), rfl⟩

/-- A normal pattern keeps its implicit one, with 29 more bits behind it (R77). -/
theorem widen_normal_value {p : Pat32} (h0 : exp32 p ≠ 0#8) (h255 : exp32 p ≠ 255#8) :
    exp64 (widen p) ≠ 2047#11 ∧ val64 (widen p) = val32 p := by
  have hE : 1 ≤ (exp32 p).toNat ∧ (exp32 p).toNat ≤ 254 := (normal_exponent_iff _).2 ⟨h0, h255⟩
  have hF := (frac32 p).isLt
  have hexp : (BitVec.ofNat 11 ((exp32 p).toNat + 896)).toNat = (exp32 p).toNat + 896 := by
    rw [BitVec.toNat_ofNat]
    omega
  have hfrac : (BitVec.ofNat 52 ((frac32 p).toNat <<< 29)).toNat = (frac32 p).toNat * 2 ^ 29 := by
    rw [BitVec.toNat_ofNat, Nat.shiftLeft_eq]
    omega
  have hexp0 : BitVec.ofNat 11 ((exp32 p).toNat + 896) ≠ 0#11 :=
    BitVec.toNat_ne_iff_ne.1 (by rw [hexp, BitVec.toNat_ofNat]; omega)
  have hunit : ((exp32 p).toNat : Int) - 150 = (((exp32 p).toNat + 896 : Nat) : Int) - 1075 + (29 : Nat) := by
    push_cast
    ring
  rw [widen_normal h0 h255, exp64_pack64]
  refine ⟨BitVec.toNat_ne_iff_ne.1 (by rw [hexp, BitVec.toNat_ofNat]; omega), ?_⟩
  rw [val64, mag64, ulp64, sign64_pack64, exp64_pack64, frac64_pack64, if_neg hexp0, if_neg hexp0, hexp, hfrac,
    val32, mag32, ulp32, if_neg h0, if_neg h0]
  apply dyadic_congr
  rw [hunit, zpow_add₀ (by norm_num), zpow_natCast]
  push_cast
  ring

/-- A finite pattern stays finite, with its value (R77). -/
theorem widen_finite {p : Pat32} (h : isFinite32 p = true) :
    exp64 (widen p) ≠ 2047#11 ∧ val64 (widen p) = val32 p := by
  by_cases h0 : exp32 p = 0#8
  · by_cases hf : frac32 p = 0#23
    · have hzero : val32 p = 0 := (val32_eq_zero_iff p).2 (by simp [isZero32, h0, hf])
      rw [widen_zero h0 hf, exp64_pack64, hzero]
      exact ⟨by decide, by rw [val64, mag64, exp64_pack64, frac64_pack64, if_pos rfl]; exact dyadic_zero _ _⟩
    · exact widen_subnormal_value h0 hf
  · exact widen_normal_value h0 ((isFinite32_iff p).1 h)

theorem isInf64_of_exp_ne {q : Pat64} (h : exp64 q ≠ 2047#11) : isInf64 q = false := by simp [isInf64, h]

theorem isNaN64_of_exp_ne {q : Pat64} (h : exp64 q ≠ 2047#11) : isNaN64 q = false := by simp [isNaN64, h]

/-- Widening keeps the special classes, whatever fraction a widened NaN is given (R77). -/
theorem widen_class (p : Pat32) : isInf64 (widen p) = isInf32 p ∧ isNaN64 (widen p) = isNaN32 p := by
  by_cases h255 : exp32 p = 255#8
  · by_cases hf : frac32 p = 0#23
    · simp [widen_infinite h255 hf, isInf64, isNaN64, isInf32, isNaN32, h255, hf]
    · simp [widen_nan h255 hf, isInf64, isNaN64, isInf32, isNaN32, h255, hf, nonZeroFraction_ne_zero]
  · obtain ⟨he, -⟩ := widen_finite ((isFinite32_iff p).2 h255)
    simp [isInf64_of_exp_ne he, isNaN64_of_exp_ne he, isInf32, isNaN32, h255]

/-! ### The dequantizers (R145, R146) -/

/-- A binary32 result on port `y` is read back from its low half (R49). -/
theorem yLow_yOnly (p : Pat32) : (yOnly (p.setWidth 64)).yLow = p :=
  (BitVec.extractLsb'_setWidth_of_le (by omega)).trans (extractLsb'_whole p)

theorem q7Int_eq_zero_iff (q : Byte) : q7Int q = 0 ↔ q = 0#8 := BitVec.toInt_inj (y := 0#8)

theorem pat32OfQ7_of_ne_zero {q : Byte} (h : q ≠ 0#8) :
    pat32OfQ7 q = shifted32 (intSign (q7Int q)) (q7Int q).natAbs 120 :=
  if_neg (mt (q7Int_eq_zero_iff q).1 h)

theorem pat64OfQ7_of_ne_zero {q : Byte} (h : q ≠ 0#8) :
    pat64OfQ7 q = shifted64 (intSign (q7Int q)) (q7Int q).natAbs 1016 :=
  if_neg (mt (q7Int_eq_zero_iff q).1 h)

/-- The magnitude of a stored integer is at most 128, so its highest bit is at most bit 7 (R76). -/
theorem natAbs_q7Int {q : Byte} (h : q ≠ 0#8) : (q7Int q).natAbs ≠ 0 ∧ msb (q7Int q).natAbs ≤ 7 := by
  have hne : (q7Int q).natAbs ≠ 0 := Int.natAbs_ne_zero.2 (mt (q7Int_eq_zero_iff q).1 h)
  have hlo : -128 ≤ q7Int q := BitVec.le_toInt q
  have hhi : q7Int q < 128 := BitVec.toInt_lt
  exact ⟨hne, Nat.lt_succ_iff.1 (msb_lt_of_lt hne (by omega))⟩

/-- Sign and magnitude of a stored integer, scaled by `2^-7`, are the value of its byte (R76). -/
theorem dyadic_intSign (q : Byte) : dyadic (intSign (q7Int q)) (q7Int q).natAbs (-7) = valQ7 q := by
  have hsigned : signedInt (intSign (q7Int q)) (q7Int q).natAbs = q7Int q := by
    unfold signedInt intSign
    by_cases hneg : q7Int q < 0
    · rw [if_pos hneg, if_pos rfl]
      omega
    · rw [if_neg hneg, if_neg (by decide)]
      omega
  rw [← signedInt_mul_two_zpow, hsigned, valQ7]
  norm_num
  ring

end Sys2Proof.Machine
end

section
/-! SUPPORT. Rounding (R78): `round32` packs the integer nearest to the magnitude at the unit it keeps, ties to even.
The result is nearest because every value of the format is a whole number of these units or below their binade. -/

namespace Sys2Proof.Machine

/-! ### The integer that is kept -/

/-- `n` units of `2^q` are what R78 keeps of a magnitude `v`: the unit is the smallest normal one or the one that leaves
24 bits, and `n` is the nearest integer, the even one of two. -/
structure KeptAs (v : ℚ) (n : Nat) (q : Int) : Prop where
  unit_ge : -149 ≤ q
  lower : q = -149 ∨ 2 ^ 23 * (2 : ℚ) ^ q ≤ v
  upper : v < 2 ^ 24 * (2 : ℚ) ^ q
  nearest : |n * (2 : ℚ) ^ q - v| ≤ (2 : ℚ) ^ q / 2
  tie_even : |n * (2 : ℚ) ^ q - v| = (2 : ℚ) ^ q / 2 → n % 2 = 0

/-- Shifting right by `k + 1` bits changes the number by at most half of the last place kept, and by exactly half only
at an even result. -/
theorem shiftRightNearestEven_bounds (m k : Nat) :
    |(shiftRightNearestEven m (k + 1) : Int) * 2 ^ (k + 1) - m| ≤ 2 ^ k ∧
      (|(shiftRightNearestEven m (k + 1) : Int) * 2 ^ (k + 1) - m| = 2 ^ k →
        shiftRightNearestEven m (k + 1) % 2 = 0) := by
  have hdiv : 2 ^ (k + 1) * (m / 2 ^ (k + 1)) + m % 2 ^ (k + 1) = m := Nat.div_add_mod m _
  have hlt : m % 2 ^ (k + 1) < 2 ^ (k + 1) := Nat.mod_lt _ (Nat.two_pow_pos _)
  simp only [shiftRightNearestEven, Nat.add_sub_cancel]
  generalize m / 2 ^ (k + 1) = n at hdiv ⊢
  generalize m % 2 ^ (k + 1) = r at hdiv hlt ⊢
  rw [pow_succ] at hdiv hlt
  have hdivZ : (2 : Int) ^ k * 2 * n + r = m := by exact_mod_cast hdiv
  have hkept : (n : Int) * 2 ^ (k + 1) - m = -r := by
    rw [← hdivZ, pow_succ]
    ring
  have hnext : ((n + 1 : Nat) : Int) * 2 ^ (k + 1) - m = 2 ^ k * 2 - r := by
    rw [← hdivZ, pow_succ]
    push_cast
    ring
  have hhalf : ((2 ^ k : Nat) : Int) = 2 ^ k := by push_cast; rfl
  split
  next hup =>
    rw [hnext, ← hhalf, Int.abs_eq_natAbs]
    generalize 2 ^ k = half at hup hlt
    omega
  next hdown =>
    rw [hkept, ← hhalf, Int.abs_eq_natAbs]
    generalize 2 ^ k = half at hdown hlt
    omega

/-- The integer kept is the nearest one at its unit, the even one of two. -/
theorem roundInteger_nearest (m : Nat) (e q : Int) :
    |roundInteger m e q * (2 : ℚ) ^ q - m * (2 : ℚ) ^ e| ≤ (2 : ℚ) ^ q / 2 ∧
      (|roundInteger m e q * (2 : ℚ) ^ q - m * (2 : ℚ) ^ e| = (2 : ℚ) ^ q / 2 →
        roundInteger m e q % 2 = 0) := by
  unfold roundInteger
  split
  next hle =>
    obtain ⟨k, rfl⟩ := Int.le.dest hle
    have hexact : ((m * 2 ^ (q + k - q).toNat : Nat) : ℚ) * (2 : ℚ) ^ q - m * (2 : ℚ) ^ (q + (k : Int)) = 0 := by
      rw [show (q + (k : Int) - q).toNat = k by omega, zpow_add₀ (by norm_num), zpow_natCast]
      push_cast
      ring
    have hpos : (0 : ℚ) < (2 : ℚ) ^ q / 2 := by positivity
    rw [hexact, abs_zero]
    exact ⟨hpos.le, fun h => absurd h hpos.ne⟩
  next hlt =>
    obtain ⟨k, hk⟩ := Int.le.dest (show e + 1 ≤ q by omega)
    rw [show (q - e).toNat = k + 1 by omega]
    obtain ⟨hnear, htie⟩ := shiftRightNearestEven_bounds m k
    generalize shiftRightNearestEven m (k + 1) = n at hnear htie
    have hpos : (0 : ℚ) < (2 : ℚ) ^ e := by positivity
    have hunit : (2 : ℚ) ^ q = 2 ^ (k + 1) * (2 : ℚ) ^ e := by
      rw [show q = ((k + 1 : Nat) : Int) + e by push_cast; omega, zpow_add₀ (by norm_num), zpow_natCast]
    have hdist : |n * (2 : ℚ) ^ q - m * (2 : ℚ) ^ e| = (|(n : Int) * 2 ^ (k + 1) - m| : Int) * (2 : ℚ) ^ e := by
      rw [hunit, ← mul_assoc, ← sub_mul, abs_mul, abs_of_pos hpos]
      push_cast
      rfl
    have hhalf : (2 : ℚ) ^ q / 2 = ((2 ^ k : Int) : ℚ) * (2 : ℚ) ^ e := by
      rw [hunit, pow_succ]
      push_cast
      ring
    rw [hdist, hhalf, mul_le_mul_iff_left₀ hpos, mul_left_inj' hpos.ne', Int.cast_le, Int.cast_inj]
    exact ⟨hnear, htie⟩

/-- The unit kept leaves at most 24 bits of the magnitude, and exactly 24 unless it is the smallest unit. -/
theorem roundUnit_bounds {m : Nat} (hm : m ≠ 0) (e : Int) :
    -149 ≤ roundUnit m e ∧
      (roundUnit m e = -149 ∨ 2 ^ 23 * (2 : ℚ) ^ roundUnit m e ≤ m * (2 : ℚ) ^ e) ∧
      m * (2 : ℚ) ^ e < 2 ^ 24 * (2 : ℚ) ^ roundUnit m e := by
  have h2 : (2 : ℚ) ≠ 0 := by norm_num
  have hpos : (0 : ℚ) < (2 : ℚ) ^ e := by positivity
  obtain ⟨hlo, hhi⟩ := (Nat.log2_eq_iff (k := msb m) hm).1 rfl
  have hlo' : (2 : ℚ) ^ msb m ≤ m := by exact_mod_cast hlo
  have hhi' : (m : ℚ) < (2 : ℚ) ^ (msb m + 1) := by exact_mod_cast hhi
  have hunit : roundUnit m e = max (e + ((msb m : Int) + 1) - 24) (-149) := rfl
  refine ⟨by omega, ?_, ?_⟩
  · by_cases hmin : roundUnit m e = -149
    · exact .inl hmin
    · right
      calc 2 ^ 23 * (2 : ℚ) ^ roundUnit m e = (2 : ℚ) ^ (23 + roundUnit m e) := by rw [zpow_add₀ h2]; rfl
        _ = (2 : ℚ) ^ ((msb m : Int) + e) := by congr 1; omega
        _ = (2 : ℚ) ^ msb m * (2 : ℚ) ^ e := by rw [zpow_add₀ h2, zpow_natCast]
        _ ≤ m * (2 : ℚ) ^ e := mul_le_mul_of_nonneg_right hlo' hpos.le
  · calc m * (2 : ℚ) ^ e < (2 : ℚ) ^ (msb m + 1) * (2 : ℚ) ^ e := mul_lt_mul_of_pos_right hhi' hpos
      _ = (2 : ℚ) ^ (((msb m + 1 : Nat) : Int) + e) := by rw [zpow_add₀ h2, zpow_natCast]
      _ ≤ (2 : ℚ) ^ (24 + roundUnit m e) := zpow_le_zpow_right₀ (by norm_num) (by push_cast; omega)
      _ = 2 ^ 24 * (2 : ℚ) ^ roundUnit m e := by rw [zpow_add₀ h2]; rfl

/-! ### The pattern that is packed -/

/-- The pattern of `(-1)^s * n * 2^q`, where `n = 2^24` has carried into the next binade (R78). -/
def packCarried (s : BitVec 1) (n : Nat) (q : Int) : Pat32 :=
  if n = 2 ^ 24 then packRounded s (2 ^ 23) (q + 1) else packRounded s n q

/-- `round32` packs what it keeps of the magnitude (R78). -/
theorem exists_keptAs (s : BitVec 1) (m : Nat) (e : Int) :
    ∃ n q, KeptAs (m * (2 : ℚ) ^ e) n q ∧ round32 s m e = packCarried s n q := by
  by_cases hm : m = 0
  · subst hm
    refine ⟨0, -149, ⟨le_rfl, .inl rfl, ?_, ?_, fun _ => rfl⟩, rfl⟩ <;>
      simp only [Nat.cast_zero, zero_mul, sub_zero, abs_zero] <;> positivity
  · obtain ⟨hunit, hlower, hupper⟩ := roundUnit_bounds hm e
    obtain ⟨hnear, htie⟩ := roundInteger_nearest m e (roundUnit m e)
    refine ⟨roundInteger m e (roundUnit m e), roundUnit m e, ⟨hunit, hlower, hupper, hnear, htie⟩, ?_⟩
    simp only [round32, if_neg hm, packCarried]

section
variable {v : ℚ} {n : Nat} {q : Int}

/-- At most 24 bits are kept, or the carry out of them. -/
theorem KeptAs.le (h : KeptAs v n q) : n ≤ 2 ^ 24 := by
  have hpos : (0 : ℚ) < (2 : ℚ) ^ q := by positivity
  have hlt : (n : ℚ) * (2 : ℚ) ^ q < (2 ^ 24 + 1) * (2 : ℚ) ^ q := by
    have hnear := (abs_le.1 h.nearest).2
    have hupper := h.upper
    linarith
  have hlt' : (n : ℚ) < 2 ^ 24 + 1 := lt_of_mul_lt_mul_right hlt hpos.le
  exact Nat.lt_succ_iff.1 (by exact_mod_cast hlt')

/-- Only at the smallest unit are fewer than 24 bits kept. -/
theorem KeptAs.normal (h : KeptAs v n q) : 2 ^ 23 ≤ n ∨ q = -149 := by
  rcases h.lower with hmin | hlower
  · exact .inr hmin
  · have hpos : (0 : ℚ) < (2 : ℚ) ^ q := by positivity
    have hlt : (2 ^ 23 - 1) * (2 : ℚ) ^ q < (n : ℚ) * (2 : ℚ) ^ q := by
      have hnear := (abs_le.1 h.nearest).1
      linarith
    have hlt' : (2 ^ 23 - 1 : ℚ) < n := lt_of_mul_lt_mul_right hlt hpos.le
    rw [sub_lt_iff_lt_add] at hlt'
    exact .inl (Nat.lt_succ_iff.1 (by exact_mod_cast hlt'))

/-- What `packRounded` makes of 24 bits: an infinity, or a finite pattern of that magnitude. -/
theorem packRounded_cases (hn : n < 2 ^ 24) (hmin : -149 ≤ q) (hnorm : 2 ^ 23 ≤ n ∨ q = -149) (s : BitVec 1) :
    (105 ≤ q ∧ packRounded s n q = pack32 s 255#8 0#23) ∨
      (q < 105 ∧ isFinite32 (packRounded s n q) = true ∧ sign32 (packRounded s n q) = s ∧
        mag32 (packRounded s n q) = n ∧ ulp32 (packRounded s n q) = q) := by
  by_cases hq : 105 ≤ q
  · exact .inl ⟨hq, by rw [packRounded, if_pos (by omega), if_pos (by omega)]⟩
  · refine .inr ⟨by omega, ?_⟩
    by_cases h0 : n = 0
    · obtain rfl : q = -149 := by omega
      subst h0
      rcases BitVec.eq_zero_or_eq_one s with rfl | rfl <;> decide
    · exact packRounded_fields_eq ⟨h0, hn, hmin, hnorm⟩ (by omega) s

/-- The last bit of a pattern is that of its significand. -/
theorem getLsbD_zero_eq_false_of_mag32 {p : Pat32} (h : mag32 p % 2 = 0) : p.getLsbD 0 = false := by
  have hfrac : (frac32 p).toNat % 2 = 0 := by
    unfold mag32 at h
    split at h <;> omega
  rw [toNat_frac32] at hfrac
  rw [BitVec.getLsbD, Nat.testBit_zero, decide_eq_false_iff_not]
  omega

/-- What is packed of the integer kept: the infinity when that is `2^128` or more; else a finite pattern of the value
kept, with a last bit of 0 if the integer is even (R78). -/
theorem KeptAs.packCarried_cases (h : KeptAs v n q) (s : BitVec 1) :
    ((105 ≤ q ∨ q = 104 ∧ n = 2 ^ 24) ∧ packCarried s n q = pack32 s 255#8 0#23) ∨
      (¬ (105 ≤ q ∨ q = 104 ∧ n = 2 ^ 24) ∧ isFinite32 (packCarried s n q) = true ∧
        sign32 (packCarried s n q) = s ∧ val32 (packCarried s n q) = dyadic s n q ∧
        (n % 2 = 0 → (packCarried s n q).getLsbD 0 = false)) := by
  have hle := h.le
  have hmin := h.unit_ge
  by_cases hc : n = 2 ^ 24
  · have hpack : packCarried s n q = packRounded s (2 ^ 23) (q + 1) := if_pos hc
    rw [hpack]
    rcases packRounded_cases (n := 2 ^ 23) (q := q + 1) (by decide) (by omega) (.inl le_rfl) s with
      ⟨hq, hinf⟩ | ⟨hq, hfin, hs, hm, hu⟩
    · exact .inl ⟨by omega, hinf⟩
    · have hval : dyadic s (2 ^ 23) (q + 1) = dyadic s n q := by
        apply dyadic_congr
        rw [hc, zpow_add₀ (by norm_num)]
        push_cast
        ring
      refine .inr ⟨by omega, hfin, hs, by rw [val32, hs, hm, hu, hval], ?_⟩
      exact fun _ => getLsbD_zero_eq_false_of_mag32 (by rw [hm]; rfl)
  · have hpack : packCarried s n q = packRounded s n q := if_neg hc
    rw [hpack]
    rcases packRounded_cases (by omega) hmin h.normal s with ⟨hq, hinf⟩ | ⟨hq, hfin, hs, hm, hu⟩
    · exact .inl ⟨.inl hq, hinf⟩
    · refine .inr ⟨by omega, hfin, hs, by rw [val32, hs, hm, hu], ?_⟩
      exact fun heven => getLsbD_zero_eq_false_of_mag32 (by rw [hm, heven])

/-- In the last binade the integer kept carries out of 24 bits from half a unit below the carry on: the largest integer
below it is odd, so a tie goes up (R78). -/
theorem KeptAs.carries_iff (h : KeptAs v n 104) :
    n = 2 ^ 24 ↔ ((2 ^ 25 - 1 : Nat) : ℚ) * (2 : ℚ) ^ (103 : Int) ≤ v := by
  have hle := h.le
  have htie := h.tie_even
  have hunit : (2 : ℚ) ^ (104 : Int) = 2 * (2 : ℚ) ^ (103 : Int) := by norm_num
  have hpos : (0 : ℚ) < (2 : ℚ) ^ (103 : Int) := by positivity
  obtain ⟨hlow, hhigh⟩ := abs_le.1 h.nearest
  rw [hunit] at hlow hhigh
  constructor
  · rintro rfl
    push_cast at hhigh ⊢
    linarith
  · intro hbound
    push_cast at hbound
    by_contra hne
    by_cases hodd : n = 2 ^ 24 - 1
    · have hlt : |n * (2 : ℚ) ^ (104 : Int) - v| < (2 : ℚ) ^ (104 : Int) / 2 :=
        lt_of_le_of_ne h.nearest fun heq => by have := htie heq; omega
      obtain ⟨hstrict, -⟩ := abs_lt.1 hlt
      rw [hunit, hodd] at hstrict
      push_cast at hstrict
      linarith
    · have hn : (n : ℚ) ≤ 2 ^ 24 - 2 := by
        rw [le_sub_iff_add_le]
        exact_mod_cast (show n + 2 ≤ 2 ^ 24 by omega)
      have hmul := mul_le_mul_of_nonneg_right hn hpos.le
      linarith

/-- The magnitudes that round to `2^128` or more are those from half a unit above the largest finite value on (R78). -/
theorem KeptAs.overflows_iff (h : KeptAs v n q) :
    (105 ≤ q ∨ q = 104 ∧ n = 2 ^ 24) ↔ ((2 ^ 25 - 1 : Nat) : ℚ) * (2 : ℚ) ^ (103 : Int) ≤ v := by
  rcases lt_trichotomy q 104 with hq | rfl | hq
  · have hupper := h.upper
    have hunit : (2 : ℚ) ^ q ≤ (2 : ℚ) ^ (103 : Int) := zpow_le_zpow_right₀ (by norm_num) (by omega)
    refine iff_of_false (by omega) (not_le.2 ?_)
    norm_num at hunit ⊢
    linarith
  · rw [← h.carries_iff]
    omega
  · have hlower := h.lower.resolve_left (by omega)
    have hunit : (2 : ℚ) ^ (105 : Int) ≤ (2 : ℚ) ^ q := zpow_le_zpow_right₀ (by norm_num) (by omega)
    refine iff_of_true (.inl (by omega)) ?_
    norm_num at hunit ⊢
    linarith

end

/-! ### The result is nearest -/

/-- Seen from a unit `2^q`, a value of the format is a whole number of units or below the binade of that unit. -/
theorem dyadic_on_grid (t : BitVec 1) (x : Pat32) (q : Int) :
    (∃ j : Int, dyadic t (mag32 x) (ulp32 x) = j * (2 : ℚ) ^ q) ∨
      (q ≠ -149 ∧ |dyadic t (mag32 x) (ulp32 x)| < 2 ^ 23 * (2 : ℚ) ^ q) := by
  have hmin := ulp32_ge x
  rcases le_or_gt q (ulp32 x) with hle | hlt
  · exact .inl ⟨signedInt t (mag32 x * 2 ^ (ulp32 x - q).toNat),
      by rw [signedInt_mul_two_zpow, dyadic_at_lower_unit _ _ hle]⟩
  · have hm : (mag32 x : ℚ) < 2 ^ 24 := by exact_mod_cast mag32_lt x
    refine .inr ⟨by omega, ?_⟩
    calc |dyadic t (mag32 x) (ulp32 x)| = (mag32 x : ℚ) * (2 : ℚ) ^ ulp32 x := abs_dyadic _ _ _
      _ < 2 ^ 24 * (2 : ℚ) ^ ulp32 x := mul_lt_mul_of_pos_right hm (by positivity)
      _ ≤ 2 ^ 24 * (2 : ℚ) ^ (q - 1) := by gcongr <;> [norm_num; omega]
      _ = 2 ^ 23 * (2 : ℚ) ^ q := by rw [zpow_sub₀ (by norm_num)]; norm_num; ring

/-- Any other whole number of units is at least as far from the magnitude, and as far only from an even one. -/
theorem KeptAs.dist_to_multiple {v : ℚ} {n : Nat} {q : Int} (h : KeptAs v n q) {j : Int} (hj : j ≠ n) :
    |n * (2 : ℚ) ^ q - v| ≤ |j * (2 : ℚ) ^ q - v| ∧
      (|j * (2 : ℚ) ^ q - v| = |n * (2 : ℚ) ^ q - v| → n % 2 = 0) := by
  have hgap : (2 : ℚ) ^ q ≤ |j * (2 : ℚ) ^ q - n * (2 : ℚ) ^ q| := by
    have hone : (1 : ℚ) ≤ |(j : ℚ) - n| := by
      exact_mod_cast Int.one_le_abs (sub_ne_zero.2 hj)
    rw [← sub_mul, abs_mul, abs_of_pos (show (0 : ℚ) < (2 : ℚ) ^ q by positivity)]
    exact le_mul_of_one_le_left (by positivity) hone
  have htri := abs_sub_le ((j : ℚ) * (2 : ℚ) ^ q) v (n * (2 : ℚ) ^ q)
  rw [abs_sub_comm v] at htri
  have hnear := h.nearest
  exact ⟨by linarith, fun heq => h.tie_even (by linarith)⟩

/-- What is kept is strictly nearer than a number below the binade. -/
theorem KeptAs.dist_below_binade {v : ℚ} {n : Nat} {q : Int} (h : KeptAs v n q) {y : ℚ} (hq : q ≠ -149)
    (hy : |y| < 2 ^ 23 * (2 : ℚ) ^ q) : |n * (2 : ℚ) ^ q - v| < |y - v| := by
  have hlower := h.lower.resolve_left hq
  have hpower : |n * (2 : ℚ) ^ q - v| ≤ v - 2 ^ 23 * (2 : ℚ) ^ q := by
    have hv : |2 ^ 23 * (2 : ℚ) ^ q - v| = v - 2 ^ 23 * (2 : ℚ) ^ q := by
      rw [abs_sub_comm, abs_of_nonneg (by linarith)]
    rw [← hv]
    by_cases hn : n = 2 ^ 23
    · rw [hn]
      push_cast
      rfl
    · obtain ⟨hle, -⟩ := h.dist_to_multiple (j := 2 ^ 23) (by intro hc; exact hn (by exact_mod_cast hc.symm))
      push_cast at hle
      exact hle
  have hyv : v - |y| ≤ |y - v| := by
    rw [abs_sub_comm]
    have hv : v ≤ |v| := le_abs_self v
    have := abs_sub_abs_le_abs_sub v y
    linarith
  linarith

/-- With the sign taken off, distances to a number are distances to its magnitude. -/
theorem abs_sub_dyadic (y : ℚ) (s : BitVec 1) (m : Nat) (e : Int) :
    |y - dyadic s m e| = |signFactor s * y - m * (2 : ℚ) ^ e| := by
  have hfactor : signFactor s * y - m * (2 : ℚ) ^ e = signFactor s * (y - dyadic s m e) := by
    rw [dyadic_eq, mul_sub, ← mul_assoc, signFactor_mul_self, one_mul]
  rw [hfactor, abs_mul, abs_signFactor, one_mul]

/-- A finite result of `round32` against any other value of the format: the result is at least as near, and where it is
only as near it has the even significand (R78). -/
theorem round32_dist {s : BitVec 1} {m : Nat} {e : Int} (hfin : isFinite32 (round32 s m e) = true) (x : Pat32)
    (hne : val32 x ≠ val32 (round32 s m e)) :
    |val32 (round32 s m e) - dyadic s m e| ≤ |val32 x - dyadic s m e| ∧
      (|val32 x - dyadic s m e| = |val32 (round32 s m e) - dyadic s m e| → (round32 s m e).getLsbD 0 = false) := by
  obtain ⟨n, q, hkept, hpack⟩ := exists_keptAs s m e
  rw [hpack] at hfin hne ⊢
  rcases hkept.packCarried_cases s with ⟨-, hinf⟩ | ⟨-, -, -, hval, heven⟩
  · simp [hinf, isFinite32] at hfin
  · have hres : signFactor s * val32 (packCarried s n q) = n * (2 : ℚ) ^ q := by
      rw [hval, dyadic_eq, ← mul_assoc, signFactor_mul_self, one_mul]
    have hx : signFactor s * val32 x = dyadic (s ^^^ sign32 x) (mag32 x) (ulp32 x) := by
      rw [val32, dyadic_eq, dyadic_eq, signFactor_xor, mul_assoc]
    have hs : signFactor s ≠ 0 := left_ne_zero_of_mul_eq_one (signFactor_mul_self s)
    have hne' : signFactor s * val32 x ≠ n * (2 : ℚ) ^ q := by
      rw [← hres]
      exact fun heq => hne (mul_left_cancel₀ hs heq)
    rw [abs_sub_dyadic, abs_sub_dyadic, hres]
    rw [hx] at hne' ⊢
    rcases dyadic_on_grid (s ^^^ sign32 x) x q with ⟨j, hj⟩ | ⟨hq, hsmall⟩
    · rw [hj] at hne' ⊢
      obtain ⟨hle, htie⟩ := hkept.dist_to_multiple (j := j) (by rintro rfl; exact hne' (by rw [Int.cast_natCast]))
      exact ⟨hle, fun heq => heven (htie heq)⟩
    · have hlt := hkept.dist_below_binade hq hsmall
      exact ⟨hlt.le, fun heq => absurd heq hlt.ne'⟩

end Sys2Proof.Machine
end

section
/-! SUPPORT. Products and sums of finite patterns by value (R79, R80), and the pattern with its sign inverted (R81). -/

namespace Sys2Proof.Machine

/-- The exact product, before it is rounded (R79). -/
theorem dyadic_mul (s t : BitVec 1) (m n : Nat) (e f : Int) :
    dyadic (s ^^^ t) (m * n) (e + f) = dyadic s m e * dyadic t n f := by
  rw [dyadic_eq, dyadic_eq, dyadic_eq, signFactor_xor, zpow_add₀ (by norm_num)]
  push_cast
  ring

theorem mag32_mul_lt (p q : Pat32) : mag32 p * mag32 q < 2 ^ 48 := by
  calc mag32 p * mag32 q < 2 ^ 24 * 2 ^ 24 := Nat.mul_lt_mul'' (mag32_lt p) (mag32_lt q)
    _ = 2 ^ 48 := by norm_num

/-- A NaN operand gives the canonical NaN (R79). -/
theorem fmul32_nan {p q : Pat32} (h : isNaN32 p = true ∨ isNaN32 q = true) : fmul32 p q = Config.qnan := by
  have h' : (isNaN32 p || isNaN32 q) = true := by rwa [Bool.or_eq_true]
  rw [fmul32, if_pos h']

/-- Of an infinity and no NaN the product is the infinity of the product's sign, unless a zero is there (R79). -/
theorem fmul32_infinite {p q : Pat32} (hp : isNaN32 p = false) (hq : isNaN32 q = false)
    (h : isInf32 p = true ∨ isInf32 q = true) :
    fmul32 p q = if isZero32 p || isZero32 q then Config.qnan else pack32 (sign32 p ^^^ sign32 q) 255#8 0#23 := by
  have hnan : ¬ (isNaN32 p || isNaN32 q) = true := by simp [hp, hq]
  have hinf : (isInf32 p || isInf32 q) = true := by rwa [Bool.or_eq_true]
  simp only [fmul32, if_neg hnan, if_pos hinf]

/-- A sum whose exact value is 0 is `+0.0` unless both operands are negative (R80). -/
theorem fadd32_zero_sum {p q : Pat32} (hp : isFinite32 p = true) (hq : isFinite32 q = true)
    (h : val32 p + val32 q = 0) :
    fadd32 p q = if sign32 p = 1#1 ∧ sign32 q = 1#1 then 0x80000000#32 else 0x00000000#32 := by
  have hneg : pack32 1#1 0#8 0#23 = 0x80000000#32 := by decide
  have hpos : pack32 0#1 0#8 0#23 = 0x00000000#32 := by decide
  rw [fadd32_of_finite hp hq]
  simp only [faddFinite, hneg, hpos]
  generalize he : min (ulp32 p) (ulp32 q) = e0
  apply if_pos
  have hsum : ((signedInt (sign32 p) (mag32 p * 2 ^ (ulp32 p - e0).toNat)
      + signedInt (sign32 q) (mag32 q * 2 ^ (ulp32 q - e0).toNat) : Int) : ℚ) * (2 : ℚ) ^ e0 = 0 := by
    rw [Int.cast_add, add_mul, signedInt_mul_two_zpow, signedInt_mul_two_zpow, dyadic_at_lower_unit _ _ (by omega),
      dyadic_at_lower_unit _ _ (by omega)]
    exact h
  exact_mod_cast (mul_eq_zero_iff_right (zpow_ne_zero _ (by norm_num))).1 hsum

/-- The operand of R81: the pattern with its sign bit inverted. -/
def negated32 (p : Pat32) : Pat32 := pack32 (~~~ sign32 p) (exp32 p) (frac32 p)

theorem fsub32_eq (p q : Pat32) : fsub32 p q = fadd32 p (negated32 q) := rfl

/-- The sign is bit 31, and the other fields do not reach it (R81). -/
theorem negated32_eq_xor (p : Pat32) : negated32 p = p ^^^ 0x80000000#32 := by
  have hs : sign32 (p ^^^ 0x80000000#32) = sign32 p ^^^ 1#1 := BitVec.extractLsb'_xor
  have he : exp32 (p ^^^ 0x80000000#32) = exp32 p := BitVec.extractLsb'_xor.trans BitVec.xor_zero
  have hf : frac32 (p ^^^ 0x80000000#32) = frac32 p := BitVec.extractLsb'_xor.trans BitVec.xor_zero
  have hnot : ~~~ sign32 p = sign32 p ^^^ 1#1 := by
    rcases BitVec.eq_zero_or_eq_one (sign32 p) with hs | hs <;> rw [hs] <;> decide
  rw [negated32, hnot, ← hs, ← he, ← hf, pack32_fields]

theorem isFinite32_negated32 (p : Pat32) : isFinite32 (negated32 p) = isFinite32 p := by
  simp [isFinite32, negated32]

theorem sign32_negated32_ne (p : Pat32) : sign32 (negated32 p) ≠ sign32 p := by
  rw [negated32, sign32_pack32]
  rcases BitVec.eq_zero_or_eq_one (sign32 p) with hs | hs <;> rw [hs] <;> decide

theorem val32_negated32 (p : Pat32) : val32 (negated32 p) = -val32 p := by
  have hfactor : signFactor (~~~ sign32 p) = -signFactor (sign32 p) := by
    rcases BitVec.eq_zero_or_eq_one (sign32 p) with hs | hs <;> rw [hs] <;> simp [signFactor]
  have hmag : mag32 (negated32 p) = mag32 p := by simp [mag32, negated32]
  have hulp : ulp32 (negated32 p) = ulp32 p := by simp [ulp32, negated32]
  rw [val32, val32, hmag, hulp, negated32, sign32_pack32, dyadic_eq, dyadic_eq, hfactor, neg_mul]

/-- A finite pattern less itself is `+0.0`: the operands have opposite signs (R81). -/
theorem fsub32_self {p : Pat32} (hp : isFinite32 p = true) : fsub32 p p = 0x00000000#32 := by
  rw [fsub32_eq, fadd32_zero_sum hp (by rwa [isFinite32_negated32]) (by rw [val32_negated32, add_neg_cancel])]
  apply if_neg
  rintro ⟨hs, hs'⟩
  exact sign32_negated32_ne p (hs'.trans hs.symm)

end Sys2Proof.Machine
end

section
/-! PROOFS. The statements of the formats and the arithmetic (spec/40_float_formats_and_arith.md). -/

namespace Sys2Proof.Proofs

open Sys2Proof Sys2Proof.Machine

/-- Settles O18: the predicates are tests on the fields, and the fields fall in one case each. -/
theorem classesPartitionPatterns : Obligations.ClassesPartitionPatterns := by
  intro p
  exact ⟨decide_eq_true_iff, decide_eq_true_iff, decide_eq_true_iff, decide_eq_true_iff, decide_eq_true_iff,
    decide_eq_true_iff, classes_count p⟩

/-- Settles O19: by the two cases of the raw exponent; the value is 0 where the magnitude is, which is at the zeros. -/
theorem binary32Value : Obligations.Binary32Value := by
  intro p _
  refine ⟨?_, (val32_eq_zero_iff p).trans (isZero32_iff p)⟩
  have hsign : signFactor (sign32 p) = if p.getLsbD 31 then -1 else 1 := by simp only [signFactor, sign32_eq_one_iff]
  rw [← hsign]
  by_cases h0 : exp32 p = 0#8
  · rw [val32_of_exp_zero h0, if_pos (show p.extractLsb' 23 8 = 0#8 from h0)]
    rfl
  · rw [val32_of_exp_ne_zero h0, if_neg (show ¬ p.extractLsb' 23 8 = 0#8 from h0)]
    rfl

/-- Settles O20: the named patterns evaluate to their values, the largest one bounds every magnitude, and
`(k + 127) << 23` has the exponent field of `2^k`. -/
theorem constantPatternsHaveTheirValues : Obligations.ConstantPatternsHaveTheirValues := by
  have hmax : val32 0x7F7FFFFF#32 = (2 ^ 24 - 1) * (2 : ℚ) ^ (104 : Int) := by decide +kernel
  refine ⟨by decide +kernel, by decide +kernel, by decide, by decide +kernel, by decide +kernel, by decide +kernel,
    by decide +kernel, by decide +kernel, by decide +kernel, by decide +kernel, ?_, by decide, by decide, by decide,
    by decide, by decide, by decide, ?_⟩
  · intro p hp
    rw [hmax]
    exact (le_abs_self _).trans (abs_val32_le hp)
  · intro k hlo hhi
    exact pattern_of_two_zpow hlo hhi

/-- Settles O21: by the two cases of the raw exponent. -/
theorem binary64Value : Obligations.Binary64Value := by
  intro p
  refine ⟨decide_eq_true_iff, decide_eq_true_iff, fun _ => ?_⟩
  have hsign : signFactor (sign64 p) = if p.getLsbD 63 then -1 else 1 := by simp only [signFactor, sign64_eq_one_iff]
  rw [← hsign]
  by_cases h0 : exp64 p = 0#11
  · rw [val64_of_exp_zero h0, if_pos (show p.extractLsb' 52 11 = 0#11 from h0)]
    rfl
  · rw [val64_of_exp_ne_zero h0, if_neg (show ¬ p.extractLsb' 52 11 = 0#11 from h0)]
    rfl

/-- Settles O22: widening is a case split on the class, and each case keeps the sign and the class. -/
theorem wideningIsExact : Obligations.WideningIsExact := by
  intro p
  obtain ⟨hinf, hnan⟩ := widen_class p
  exact ⟨sign64_widen p, widen_finite, by rw [hinf], by rw [hnan]⟩

/-- Settles O23: another value is a whole number of the units kept, or below the binade. -/
theorem roundingIsToNearest : Obligations.RoundingIsToNearest := by
  intro s m e x hfin _
  by_cases hne : val32 x = val32 (round32 s m e)
  · rw [hne]
  · exact (round32_dist hfin x hne).1

/-- Settles O24: as near as the result is only another whole number of the units kept. -/
theorem roundingTiesGoToEven : Obligations.RoundingTiesGoToEven := by
  intro s m e x hfin _ hne htie
  exact (round32_dist hfin x hne).2 htie

/-- Settles O25: what is kept is packed as an infinity exactly when it is `2^128` or more. -/
theorem roundingOverflowsToInfinity : Obligations.RoundingOverflowsToInfinity := by
  intro s m e
  refine ⟨isNaN32_round32 s m e, ?_⟩
  obtain ⟨n, q, hkept, hpack⟩ := exists_keptAs s m e
  rw [hpack, ← hkept.overflows_iff]
  rcases hkept.packCarried_cases s with ⟨hover, hinf⟩ | ⟨hover, hfin, hs, -, -⟩
  · rw [hinf]
    exact ⟨sign32_pack32 _ _ _, iff_of_true (by simp [isInf32]) hover⟩
  · exact ⟨hs, iff_of_false (by simp [isInf32, (isFinite32_iff _).1 hfin]) hover⟩

/-- Settles O26: the rule's cases in its order. -/
theorem multiplicationByCases : Obligations.MultiplicationByCases := by
  intro p q
  refine ⟨fmul32_nan, ?_, ?_⟩
  · intro hp hq hinf
    rw [fmul32_infinite hp hq hinf]
    constructor
    · intro hzero
      exact if_pos (by rwa [Bool.or_eq_true])
    · intro hzp hzq
      exact if_neg (by simp [hzp, hzq])
  · intro hp hq
    exact ⟨fmul32_of_finite hp hq, mag32_mul_lt p q, dyadic_mul _ _ _ _ _ _⟩

/-- Settles O27: a product or a result of RECON that is a NaN is the canonical one. -/
theorem onlyCanonicalNaNComesOut : Obligations.OnlyCanonicalNaNComesOut := by
  refine ⟨fun p q => fmul32_eq_qnan_of_isNaN32, ?_⟩
  intro A B C K
  have hlow : (respond (.recon A B C K)).yLow = reconstruct A B C K := yLow_yOnly _
  rw [hlow]
  exact reconstruct_eq_qnan_of_isNaN32

/-- Settles O28: a representable sum is not changed by rounding, and a zero sum is a case of its own. -/
theorem additionIsExactWhereRepresentable : Obligations.AdditionIsExactWhereRepresentable := by
  intro p q hp hq
  refine ⟨?_, fadd32_zero_sum hp hq⟩
  intro r hr hsum h0
  rw [fadd32_of_finite hp hq]
  exact faddFinite_exact hr h0 hsum

/-- Settles O29: the inverted sign is bit 31, and a pattern and its negation add to 0. -/
theorem subtractionIsAdditionOfNegation : Obligations.SubtractionIsAdditionOfNegation := by
  refine ⟨?_, fun p => fsub32_self⟩
  intro p q
  rw [fsub32_eq, negated32_eq_xor]

/-- Settles O53: but for zero, both patterns are the stored integer shifted up to its implicit one, to the width of
their fraction fields. -/
theorem dequantizersAreExact : Obligations.DequantizersAreExact := by
  intro q
  have hd : (respond (.q7td q)).y = pat64OfQ7 q := rfl
  have hf : (respond (.q7ts q)).yLow = pat32OfQ7 q := yLow_yOnly _
  have hy : (respond (.q7ts q)).y = (pat32OfQ7 q).setWidth 64 := rfl
  simp only [hd, hf]
  refine ⟨hy, ?_⟩
  by_cases h0 : q = 0#8
  · subst h0
    have h32 : pat32OfQ7 0#8 = 0#32 := by decide
    have h64 : pat64OfQ7 0#8 = 0#64 := by decide
    rw [h32, h64]
    exact ⟨by decide, by decide +kernel, by decide, by decide +kernel, fun _ => ⟨rfl, rfl⟩, by decide, by decide,
      fun hne => absurd rfl hne, by decide⟩
  · obtain ⟨hM, hP⟩ := natAbs_q7Int h0
    obtain ⟨hs32, he32, hf32⟩ := shifted32_fields (b := 120) hM (by omega) (by omega) (intSign (q7Int q))
    obtain ⟨hs64, he64, hf64⟩ := shifted64_fields (b := 1016) hM (by omega) (by omega) (intSign (q7Int q))
    have hv32 := val32_shifted32 (b := 120) hM (by omega) (by omega) (by omega) (intSign (q7Int q))
    have hv64 := val64_shifted64 (b := 1016) hM (by omega) (by omega) (by omega) (intSign (q7Int q))
    rw [pat32OfQ7_of_ne_zero h0, pat64OfQ7_of_ne_zero h0]
    refine ⟨?_, hv32.trans (dyadic_intSign q), ?_, hv64.trans (dyadic_intSign q), fun hq => absurd hq h0, ?_, ?_,
      fun _ => ⟨by omega, ?_⟩, hs32.trans hs64.symm⟩
    · exact (isFinite32_iff _).2 (BitVec.toNat_ne_iff_ne.1 (by rw [he32, BitVec.toNat_ofNat]; omega))
    · exact BitVec.toNat_ne_iff_ne.1 (by rw [he64, BitVec.toNat_ofNat]; omega)
    · intro hzero
      rw [hzero] at he64
      have hE : (exp64 0x8000000000000000#64).toNat = 0 := by decide
      omega
    · intro hzero
      rw [hzero] at he32
      have hE : (exp32 0x80000000#32).toNat = 0 := by decide
      omega
    · rw [hf32, hf64, ← Nat.shiftLeft_add]
      congr 1
      omega

/-- Settles O60: each response to a zero evaluates to the one the rule names. -/
theorem signedZeros : Obligations.SignedZeros := by
  refine ⟨?_, ?_, ?_, ?_, ?_, ?_, ?_, ?_, ?_, ?_⟩ <;> decide

end Sys2Proof.Proofs
end

section
/-! SUPPORT. DECOMP's ports by the fields of the pattern (R101), and by shifts and masks of it as a number (R100). -/

namespace Sys2Proof.Machine

/-- The port slices that hold DECOMP's fields are the fields of the pattern (R101). -/
theorem respond_decomp_slices (p : Pat32) :
    (respond (.decomp p)).y.extractLsb' 0 1 = sign32 p ∧
    (respond (.decomp p)).y1.extractLsb' 0 8 = exp32 p ∧
    (respond (.decomp p)).y2.extractLsb' 0 23 = frac32 p := by
  rw [respond, decompRsp_eq_fields]
  simp [BitVec.extractLsb'_setWidth_of_le]

/-- DECOMP's ports, read as numbers, are the fields of the pattern (R101). -/
theorem respond_decomp_toNat (p : Pat32) :
    (respond (.decomp p)).y.toNat = (sign32 p).toNat ∧
    (respond (.decomp p)).y1.toNat = (exp32 p).toNat ∧
    (respond (.decomp p)).y2.toNat = (frac32 p).toNat := by
  rw [respond, decompRsp_eq_fields]
  exact ⟨BitVec.toNat_setWidth_of_le (by omega), BitVec.toNat_setWidth_of_le (by omega),
    BitVec.toNat_setWidth_of_le (by omega)⟩

/-- Patterns and triples of fields are in bijection: `pack32` is the inverse of taking the fields (R33, R101). -/
theorem fields32_bijective :
    Function.Bijective (fun p : Pat32 => (sign32 p, exp32 p, frac32 p)) := by
  refine Function.bijective_iff_has_inverse.2 ⟨fun t => pack32 t.1 t.2.1 t.2.2, pack32_fields, ?_⟩
  rintro ⟨s, e, f⟩
  simp only [sign32_pack32, exp32_pack32, frac32_pack32]

/-- DECOMP's ports as shifts and masks of the pattern's number (R100). -/
theorem decompRsp_eq_ofNat (p : Pat32) : decompRsp p =
    { y := BitVec.ofNat 64 (p.toNat >>> 31)
      y1 := BitVec.ofNat 32 ((p.toNat >>> 23) &&& 0xFF)
      y2 := BitVec.ofNat 32 (p.toNat &&& 0x007FFFFF)
      cat := 0#2
      eu := 0#9 } := by
  have hy : (p >>> 31).setWidth 64 = BitVec.ofNat 64 (p.toNat >>> 31) := by
    rw [← BitVec.toNat_ushiftRight, BitVec.ofNat_toNat]
  have hy1 : p >>> 23 &&& 0xFF#32 = BitVec.ofNat 32 ((p.toNat >>> 23) &&& 0xFF) := by
    rw [BitVec.ofNat_and, ← BitVec.toNat_ushiftRight, BitVec.ofNat_toNat, BitVec.setWidth_eq]
  have hy2 : p &&& 0x007FFFFF#32 = BitVec.ofNat 32 (p.toNat &&& 0x007FFFFF) := by
    rw [BitVec.ofNat_and, BitVec.ofNat_toNat, BitVec.setWidth_eq]
  rw [← hy, ← hy1, ← hy2]
  rfl

end Sys2Proof.Machine
end

section
/-! PROOFS. The statements of the field extractor (spec/41_field_extractor.md). -/

namespace Sys2Proof.Proofs

open Sys2Proof Sys2Proof.Machine

/-- Settles O31: the port slices are the pattern's fields, and `pack32` concatenates them back. -/
theorem decompFieldsReproducePattern : Obligations.DecompFieldsReproducePattern := by
  constructor
  · intro p
    obtain ⟨hs, he, hf⟩ := respond_decomp_slices p
    obtain ⟨hsNat, heNat, hfNat⟩ := respond_decomp_toNat p
    simp only [hs, he, hf, hsNat, heNat, hfNat]
    exact ⟨pack32_fields p, (toNat_eq_fields p).symm⟩
  · convert fields32_bijective using 2 with p
    obtain ⟨hs, he, hf⟩ := respond_decomp_slices p
    simp only [hs, he, hf]

/-- Settles O30: DECOMP's transaction answers with the shifts and masks of R100. -/
theorem decompResult : Obligations.DecompResult := by
  intro p s
  rw [exec_eq_answer, respond, decompRsp_eq_ofNat]
  rfl

end Sys2Proof.Proofs
end

section
/-! SUPPORT. DECODE's ports by their rules: multiplier (R111), exponent value (R115, R116), the loop with its weights
written out (R118), category (R112), effective exponent (R114); and what the three numbers stand for (R119, R122). -/

namespace Sys2Proof.Machine

/-- DECODE answers with its five results (R110). -/
theorem respond_decode (s : BitVec 1) (e : BitVec 8) (f : BitVec 23) : respond (.decode s e f) = decodeRsp s e f := rfl

/-! ### The multiplier (R111) -/

theorem setWidth_multiplier (s : BitVec 1) :
    (multiplier s).setWidth 64 = if s = 0#1 then 0x3F800000#64 else 0xBF800000#64 := by
  rcases BitVec.eq_zero_or_eq_one s with rfl | rfl <;> decide

theorem yLow_decodeRsp (s : BitVec 1) (e : BitVec 8) (f : BitVec 23) : (decodeRsp s e f).yLow = multiplier s :=
  yLow_yOnly (multiplier s)

/-- The multiplier is the factor `(-1)^s` (R111). -/
theorem val32_multiplier (s : BitVec 1) : val32 (multiplier s) = signFactor s := by
  have he : exp32 (multiplier s) = 127#8 := exp32_pack32 _ _ _
  have hs : sign32 (multiplier s) = s := sign32_pack32 _ _ _
  have hf : frac32 (multiplier s) = 0#23 := frac32_pack32 _ _ _
  rw [val32_of_exp_ne_zero (by rw [he]; decide), he, hs, hf]
  norm_num

/-! ### The exponent (R114, R115) -/

/-- A pattern with nothing but an exponent field is that field shifted up (R73). -/
theorem pack32_exponent (e : BitVec 8) : pack32 0#1 e 0#23 = e.setWidth 32 <<< 23 := by
  have he := e.isLt
  apply BitVec.eq_of_toNat_eq
  rw [pack32_toNat, BitVec.toNat_shiftLeft, BitVec.toNat_setWidth, Nat.shiftLeft_eq]
  simp only [BitVec.toNat_ofNat]
  omega

theorem expValue_eq (e : BitVec 8) :
    expValue e = if e = 255#8 then 0x00000000#32 else if e = 0#8 then 0x00800000#32 else e.setWidth 32 <<< 23 := by
  rw [expValue, pack32_exponent, Config.expSpecial]

theorem effExp_eq (e : BitVec 8) : effExp e = if e = 0#8 then -126 else (e.toNat : Int) - 127 := rfl

/-- Removing the bias leaves the range of R114, with 128 for the special path. -/
theorem effExp_bounds (e : BitVec 8) : -126 ≤ effExp e ∧ effExp e ≤ 128 := by
  have he := e.isLt
  rw [effExp_eq]
  split
  next => omega
  next h0 =>
    have hpos : e.toNat ≠ 0 := fun hc => h0 (BitVec.eq_of_toNat_eq hc)
    omega

/-- The port `eu` is wide enough for every effective exponent (R114). -/
theorem toInt_eu_decodeRsp (s : BitVec 1) (e : BitVec 8) (f : BitVec 23) : (decodeRsp s e f).eu.toInt = effExp e := by
  obtain ⟨hlo, hhi⟩ := effExp_bounds e
  rw [decodeRsp, BitVec.toInt_ofInt, Int.bmod_def]
  omega

/-- But for the special path the exponent value is the pattern of `2^eff_exp(E)` (R73, R115). -/
theorem expValue_eq_shiftLeft {e : BitVec 8} (h255 : e ≠ 255#8) :
    expValue e = BitVec.ofInt 32 (effExp e + 127) <<< 23 := by
  rw [expValue, Config.expSpecial, if_neg h255, effExp_eq]
  split
  next => decide
  next => rw [sub_add_cancel, BitVec.ofInt_natCast, BitVec.ofNat_toNat, pack32_exponent]

theorem expValue_exact {e : BitVec 8} (h255 : e ≠ 255#8) :
    isFinite32 (expValue e) = true ∧ val32 (expValue e) = (2 : ℚ) ^ effExp e := by
  have hE : e.toNat ≠ 255 := fun hc => h255 (BitVec.eq_of_toNat_eq hc)
  have he := e.isLt
  have hhi : effExp e ≤ 127 := by
    rw [effExp_eq]
    split <;> omega
  rw [expValue_eq_shiftLeft h255]
  exact pattern_of_two_zpow (effExp_bounds e).1 hhi

/-! ### The category (R112) -/

theorem code_category (e : BitVec 8) (f : BitVec 23) :
    (category e f).code = if e = 255#8 then (if f = 0#23 then 2#2 else 3#2) else if e = 0#8 then 1#2 else 0#2 := by
  rw [category, Config.expSpecial, apply_ite Category.code, apply_ite Category.code, apply_ite Category.code]
  rfl

/-! ### The accumulate loop (R117, R118) -/

/-- The weight of fraction bit `i` is the exponent field `104 + i`, shifted up (R118). -/
theorem weight_eq_ofNat {i : Nat} (h : i < 23) : weight i = BitVec.ofNat 32 ((104 + i) <<< 23) := by
  apply BitVec.eq_of_toNat_eq
  rw [weight, pack32_toNat, Nat.shiftLeft_eq]
  simp only [BitVec.toNat_ofNat]
  omega

/-- The mantissa value as the loop over the fraction bits, with the weights written out (R116 to R118). -/
theorem mantValue_eq_loop (e : BitVec 8) (f : BitVec 23) :
    mantValue e f = if e = 255#8 then 0x00000000#32
      else (List.range 23).foldl
        (fun acc i => if f.getLsbD i then fadd32 acc (BitVec.ofNat 32 ((104 + i) <<< 23)) else acc)
        (if e = 0#8 then 0x00000000#32 else 0x3F800000#32) := by
  rw [mantValue, Config.expSpecial, Config.mantWidth, initialAcc]
  refine if_congr Iff.rfl rfl (List.foldl_ext _ _ _ fun acc i hi => ?_)
  rw [accumulate, weight_eq_ofNat (List.mem_range.1 hi)]

/-- What the loop starts from stands for the implicit one, or for none (R117). -/
theorem implicitOne_div (e : BitVec 8) : (implicitOne e : ℚ) / 2 ^ 23 = if e = 0#8 then 0 else 1 := by
  unfold implicitOne
  split <;> norm_num

theorem implicitOne_le (e : BitVec 8) : implicitOne e ≤ 2 ^ 23 := by
  unfold implicitOne
  split <;> omega

/-- The mantissa value is `1.f` or `0.f` (R119). -/
theorem mantValue_exact {e : BitVec 8} (h255 : e ≠ 255#8) (f : BitVec 23) :
    isFinite32 (mantValue e f) = true ∧
      val32 (mantValue e f) = (if e = 0#8 then 0 else 1) + (f.toNat : ℚ) / 2 ^ 23 := by
  have hb := implicitOne_le e
  have hf := f.isLt
  obtain ⟨-, hfin, hval⟩ := mantPattern_exact (show implicitOne e + f.toNat < 2 ^ 24 by omega)
  rw [mantValue_eq h255, ← implicitOne_div, ← add_div]
  exact ⟨hfin, by rw [hval]; push_cast; rfl⟩

/-! ### The leading-one detector and the shift (R119) -/

theorem mantValue_normal {e : BitVec 8} (h0 : e ≠ 0#8) (h255 : e ≠ 255#8) (f : BitVec 23) :
    mantValue e f = pack32 0#1 127#8 f := by
  rw [mantValue_eq h255, implicitOne, if_neg h0, mantPattern_implicit_one]

theorem mantValue_subnormal (f : BitVec 23) : mantValue 0#8 f = mantPattern f.toNat := by
  rw [mantValue_eq (by decide), implicitOne, if_pos rfl, Nat.zero_add]

theorem mantValue_zero : mantValue 0#8 0#23 = 0x00000000#32 := by
  rw [mantValue_subnormal]
  decide

/-- A mantissa value below `1.0` is the fraction shifted up to its leading one (R119). -/
theorem mantPattern_eq_shifted32 {f : BitVec 23} (h : f ≠ 0#23) :
    mantPattern f.toNat = shifted32 0#1 f.toNat 104 := by
  have h0 : f.toNat ≠ 0 := fun hc => h (BitVec.eq_of_toNat_eq hc)
  have hP : msb f.toNat < 23 := msb_lt_of_lt h0 f.isLt
  have hf := f.isLt
  obtain ⟨hs, he, -⟩ := shifted32_fields (b := 104) h0 (by omega) (by omega) 0#1
  refine (eq_mantPattern (by omega) hs ?_ ?_).symm
  · exact (isFinite32_iff _).2 (BitVec.toNat_ne_iff_ne.1 (by rw [he, BitVec.toNat_ofNat]; omega))
  · rw [val32_shifted32 h0 (by omega) (by omega) (by omega), dyadic_eq]
    norm_num [signFactor, div_eq_mul_inv]

/-- A fraction under the exponent field of `1.0` is or-ed into that pattern (R119). -/
theorem pack32_implicit_one (f : BitVec 23) : pack32 0#1 127#8 f = 0x3F800000#32 ||| f.setWidth 32 := by
  apply BitVec.eq_of_toNat_eq
  have hf : f.toNat < 2 ^ 32 := lt_trans f.isLt (by norm_num)
  rw [pack32, BitVec.toNat_append, BitVec.toNat_or, BitVec.toNat_setWidth, Nat.mod_eq_of_lt hf]
  rfl

/-- The patterns of mantissa values below `1.0` (R120). -/
theorem mantPattern_range {f : BitVec 23} (h : f ≠ 0#23) :
    0x34000000#32 ≤ mantPattern f.toNat ∧ mantPattern f.toNat ≤ 0x3F7FFFFE#32 := by
  have h0 : f.toNat ≠ 0 := fun hc => h (BitVec.eq_of_toNat_eq hc)
  have hP : msb f.toNat < 23 := msb_lt_of_lt h0 f.isLt
  obtain ⟨hs, he, hf⟩ := shifted32_fields (b := 104) h0 (by omega) (by omega) 0#1
  have hlt := shifted_lt h0 (show msb f.toNat ≤ 23 by omega)
  have heven : 2 ∣ (f.toNat - 2 ^ msb f.toNat) <<< (23 - msb f.toNat) := by
    rw [Nat.shiftLeft_eq]
    exact Dvd.dvd.mul_left (dvd_pow_self 2 (by omega)) _
  rw [mantPattern_eq_shifted32 h, BitVec.le_def, BitVec.le_def, toNat_eq_fields (shifted32 _ _ _), hs, he, hf]
  simp only [BitVec.toNat_ofNat]
  omega

/-! ### The order of the additions (R119) -/

/-- What fraction bit `i` adds, in units of `2^-23` (R118). -/
def bitUnits (f : BitVec 23) (i : Nat) : Nat := 2 ^ i * (f.getLsbD i).toNat

/-- The loop over any list of bits adds what they weigh, while the sum stays below `2.0` (R119). -/
theorem foldl_accumulate_list (f : BitVec 23) {order : List Nat} (hbits : ∀ i ∈ order, i < 23) {b : Nat}
    (hb : b + (order.map (2 ^ ·)).sum < 2 ^ 24) :
    order.foldl (accumulate f) (mantPattern b) = mantPattern (b + (order.map (bitUnits f)).sum) := by
  induction order generalizing b with
  | nil => rfl
  | cons i rest ih =>
    obtain ⟨hi, hrest⟩ := List.forall_mem_cons.1 hbits
    rw [List.map_cons, List.sum_cons] at hb
    have hle : bitUnits f i ≤ 2 ^ i := mul_le_of_le_one_right (Nat.zero_le _) (Bool.toNat_le _)
    rw [List.foldl_cons, accumulate_mantPattern f hi (by omega), ← bitUnits, ih hrest (by omega), List.map_cons,
      List.sum_cons, add_assoc]

/-- All fraction bits, in any order, add the same (R119). -/
theorem foldl_accumulate_perm (e : BitVec 8) (f : BitVec 23) {order : List Nat} (h : order.Perm (List.range 23)) :
    order.foldl (accumulate f) (initialAcc e) =
      mantPattern (implicitOne e + ((List.range 23).map (bitUnits f)).sum) := by
  have hall : ((List.range 23).map (2 ^ ·)).sum = 2 ^ 23 - 1 := by decide
  have hb := implicitOne_le e
  rw [initialAcc_eq, foldl_accumulate_list f (fun i hi => List.mem_range.1 (h.mem_iff.1 hi))
    (by rw [(h.map _).sum_eq, hall]; omega), (h.map _).sum_eq]

end Sys2Proof.Machine
end

section
/-! PROOFS. The statements of the field decoder (spec/42_field_decoder.md). -/

namespace Sys2Proof.Proofs

open Sys2Proof Sys2Proof.Machine

/-- Settles O32: each port is the result of its rule, and each weight of the loop is written out. -/
theorem decodeResult : Obligations.DecodeResult := by
  intro S E F s
  rw [exec_eq_answer, respond_decode, decodeRsp, setWidth_multiplier, expValue_eq, mantValue_eq_loop, code_category,
    effExp_eq]
  rfl

/-- Settles O33: the effective exponents lie in the range of 9 bits. -/
theorem biasRemoverNeverWraps : Obligations.BiasRemoverNeverWraps := by
  refine ⟨?_, by decide, by decide, by decide, by decide, by decide⟩
  intro S E F
  rw [respond_decode, toInt_eu_decodeRsp]
  exact ⟨effExp_eq E, effExp_bounds E⟩

/-- Settles O34: the exponent value has `eff_exp(E) + 127` as its exponent field. -/
theorem exponentValueIsPowerOfEffectiveExponent : Obligations.ExponentValueIsPowerOfEffectiveExponent := by
  intro S E F h255
  rw [respond_decode, toInt_eu_decodeRsp]
  exact expValue_exact h255

/-- Settles O36: `1.f` has the fraction in its fraction field, `0.f` its bits below the leading one. -/
theorem mantissaLoopHasClosedForm : Obligations.MantissaLoopHasClosedForm := by
  intro E F h255
  by_cases h0 : E = 0#8
  · subst h0
    rw [if_pos rfl]
    by_cases hF : F = 0#23
    · rw [if_pos hF, hF, mantValue_zero]
    · rw [if_neg hF, mantValue_subnormal, mantPattern_eq_shifted32 hF, shifted32]
  · rw [if_neg h0, mantValue_normal h0 h255, pack32_implicit_one]

/-- Settles O37: after bit `i` the loop holds the low `i + 1` bits of the fraction, exactly. -/
theorem mantissaPartialSumsAreExact : Obligations.MantissaPartialSumsAreExact := by
  intro E F i _ hi
  have hb := implicitOne_le E
  have hmod : F.toNat % 2 ^ (i + 1) < 2 ^ 23 := lt_of_le_of_lt (Nat.mod_le _ _) F.isLt
  obtain ⟨-, hfin, hval⟩ := mantPattern_exact (show implicitOne E + F.toNat % 2 ^ (i + 1) < 2 ^ 24 by omega)
  rw [initialAcc_eq, foldl_accumulate F hb (by omega), ← implicitOne_div, ← add_div]
  exact ⟨hfin, by rw [hval, Nat.cast_add]⟩

/-- Settles O38: in every order the loop adds the same weights, and no partial sum rounds. -/
theorem mantissaOrderDoesNotMatter : Obligations.MantissaOrderDoesNotMatter := by
  intro E F order h255 horder
  rw [mantValue, Config.expSpecial, if_neg h255, Config.mantWidth, foldl_accumulate_perm E F horder,
    foldl_accumulate_perm E F (List.Perm.refl _)]

/-- Settles O39: by the three cases of the raw exponent. -/
theorem mantissaRange : Obligations.MantissaRange := by
  intro S E F
  have hlo : 0 ≤ (F.toNat : ℚ) / 2 ^ 23 := by positivity
  have hhi : (F.toNat : ℚ) / 2 ^ 23 ≤ 1 - 1 / 2 ^ 23 := by
    rw [le_sub_iff_add_le, ← add_div, div_le_one (by positivity)]
    exact_mod_cast F.isLt
  simp only [respond_decode, decodeRsp]
  refine ⟨?_, ?_, ?_⟩
  · intro h0 h255
    obtain ⟨-, hval⟩ := mantValue_exact h255 F
    rw [if_neg h0] at hval
    obtain ⟨hge, hle⟩ := (one_le_lt_two_iff _).2 ⟨F, (mantValue_normal h0 h255 F).symm⟩
    refine ⟨hge, hle, by linarith, by linarith, ?_⟩
    rw [mantValue_normal h0 h255, mantValue_normal (by decide) (by decide)]
  · rintro rfl
    obtain ⟨-, hval⟩ := mantValue_exact (show 0#8 ≠ 255#8 by decide) F
    rw [if_pos rfl, zero_add] at hval
    refine ⟨?_, by rwa [hval], by rwa [hval], rfl⟩
    by_cases hF : F = 0#23
    · exact .inl (by rw [hF, mantValue_zero])
    · exact .inr (by rw [mantValue_subnormal]; exact mantPattern_range hF)
  · rintro rfl
    exact if_pos rfl

/-- Settles O40: the factors are `(-1)^S`, `2^eff_exp(E)` and `0.f` or `1.f`. -/
theorem decodedFactorsMultiplyToValue : Obligations.DecodedFactorsMultiplyToValue := by
  intro p hp
  have h255 := (isFinite32_iff p).1 hp
  obtain ⟨-, hexp⟩ := expValue_exact h255
  obtain ⟨-, hmant⟩ := mantValue_exact h255 (frac32 p)
  simp only [respond_decode, yLow_decodeRsp, val32_multiplier]
  simp only [decodeRsp, hexp, hmant, effExp_eq, mul_assoc]
  by_cases h0 : exp32 p = 0#8
  · rw [val32_of_exp_zero h0, if_pos h0, if_pos h0, zero_add]
  · rw [val32_of_exp_ne_zero h0, if_neg h0, if_neg h0]

/-- Settles O35: DECODE's response on the special path, at raw exponent 255. -/
theorem specialPathGivesZeros : Obligations.SpecialPathGivesZeros := by
  intro S F s
  rw [exec_eq_answer, respond_decode, decodeRsp_special, setWidth_multiplier]
  rfl

/-- Settles O41: each row is evaluated, the loop included. -/
theorem decodeWorkedResults : Obligations.DecodeWorkedResults := by
  refine ⟨?_, ?_, ?_, ?_, ?_, ?_, ?_, ?_, ?_, ?_, ?_, ?_, ?_, ?_, ?_, ?_⟩ <;> decide +kernel

end Sys2Proof.Proofs
end

section
/-! SUPPORT. Exact products (R79): a product that a finite pattern stands for is that pattern. So the three decoded
numbers multiply to the pattern they came from, in each order of the two multiplications (R136). -/

namespace Sys2Proof.Machine

/-! ### Exact products (R78, R79) -/

/-- The finite pattern `p` has the sign `s` and the value `v`, which fix it (R71). -/
structure Represents (p : Pat32) (s : BitVec 1) (v : ℚ) : Prop where
  finite : isFinite32 p = true
  sign : sign32 p = s
  value : val32 p = v

/-- A product that a finite pattern of the product's sign stands for is that pattern (R79). -/
theorem fmul32_exact {p q r : Pat32} (hp : isFinite32 p = true) (hq : isFinite32 q = true) (hr : isFinite32 r = true)
    (hs : sign32 r = sign32 p ^^^ sign32 q) (hv : val32 r = val32 p * val32 q) : fmul32 p q = r := by
  rw [fmul32_of_finite hp hq, ← hs]
  apply round32_of_magnitude hr
  rw [← abs_val32, hv, abs_mul, abs_val32, abs_val32, zpow_add₀ (by norm_num)]
  push_cast
  ring

/-- A second factor of sign 0 leaves the sign of the first (R79). -/
theorem Represents.fmul32_eq {p q r : Pat32} {s : BitVec 1} {v w : ℚ} (hp : Represents p s v)
    (hq : Represents q 0#1 w) (hr : Represents r s (v * w)) : fmul32 p q = r := by
  apply fmul32_exact hp.finite hq.finite hr.finite
  · rw [hr.sign, hp.sign, hq.sign, BitVec.xor_zero]
  · rw [hr.value, hp.value, hq.value]

/-- The same exponent and fraction under another sign (R70). -/
theorem Represents.withSign {p : Pat32} {v : ℚ} (h : Represents p 0#1 v) (s : BitVec 1) :
    Represents (pack32 s (exp32 p) (frac32 p)) s (signFactor s * v) := by
  have hfactor : signFactor 0#1 = 1 := if_neg (by decide)
  refine ⟨by simpa [isFinite32] using h.finite, sign32_pack32 _ _ _, ?_⟩
  rw [← h.value, val32, val32, h.sign, dyadic_eq, dyadic_eq, hfactor, one_mul]
  simp [mag32, ulp32]

/-! ### The decoded numbers (R111, R115, R118) -/

theorem represents_multiplier (s : BitVec 1) : Represents (multiplier s) s (signFactor s) :=
  ⟨by simp [multiplier, isFinite32], sign32_pack32 _ _ _, val32_multiplier s⟩

theorem represents_expValue {e : BitVec 8} (h255 : e ≠ 255#8) : Represents (expValue e) 0#1 (val32 (expValue e)) := by
  refine ⟨(expValue_exact h255).1, ?_, rfl⟩
  rw [expValue, Config.expSpecial, if_neg h255]
  split
  · decide
  · exact sign32_pack32 _ _ _

theorem represents_mantValue {e : BitVec 8} (h255 : e ≠ 255#8) (f : BitVec 23) :
    Represents (mantValue e f) 0#1 (val32 (mantValue e f)) := by
  refine ⟨(mantValue_exact h255 f).1, ?_, rfl⟩
  have hb := implicitOne_le e
  have hf := f.isLt
  rw [mantValue_eq h255]
  exact (mantPattern_exact (by omega)).1

/-- The value of a finite pattern is the product of its three decoded numbers (R122). -/
theorem represents_fields {e : BitVec 8} (h255 : e ≠ 255#8) (s : BitVec 1) (f : BitVec 23) :
    Represents (pack32 s e f) s (signFactor s * (val32 (expValue e) * val32 (mantValue e f))) := by
  have hfin : isFinite32 (pack32 s e f) = true := by rwa [isFinite32_iff, exp32_pack32]
  refine ⟨hfin, sign32_pack32 _ _ _, ?_⟩
  have hfactors := Proofs.decodedFactorsMultiplyToValue (pack32 s e f) hfin
  simp only [sign32_pack32, exp32_pack32, frac32_pack32, respond_decode, yLow_decodeRsp, val32_multiplier] at hfactors
  rw [← mul_assoc]
  exact hfactors

/-- No order of the two multiplications rounds: the product of two of the numbers is a finite pattern, and that of all
three is the pattern that was decoded (R136). -/
theorem fmul32_decoded {e : BitVec 8} (h255 : e ≠ 255#8) (s : BitVec 1) (f : BitVec 23) :
    fmul32 (fmul32 (multiplier s) (expValue e)) (mantValue e f) = pack32 s e f ∧
    fmul32 (multiplier s) (fmul32 (expValue e) (mantValue e f)) = pack32 s e f ∧
    fmul32 (fmul32 (multiplier s) (mantValue e f)) (expValue e) = pack32 s e f := by
  have hsign := represents_multiplier s
  have hexp := represents_expValue h255
  have hmant := represents_mantValue h255 f
  have hall := represents_fields h255 s f
  have hmag : Represents (pack32 0#1 e f) 0#1 (val32 (expValue e) * val32 (mantValue e f)) := by
    simpa [signFactor] using represents_fields h255 0#1 f
  rw [hsign.fmul32_eq hexp (hexp.withSign s), hexp.fmul32_eq hmant hmag, hsign.fmul32_eq hmant (hmant.withSign s)]
  refine ⟨?_, ?_, ?_⟩
  · exact (hexp.withSign s).fmul32_eq hmant (by rw [mul_assoc]; exact hall)
  · exact hsign.fmul32_eq hmag hall
  · exact (hmant.withSign s).fmul32_eq hexp (by rw [mul_assoc, mul_comm (val32 (mantValue e f))]; exact hall)

end Sys2Proof.Machine
end

section
/-! SUPPORT. The path that RECON takes (R131 to R134), and the requests of the pipeline (R60). -/

namespace Sys2Proof

open Sys2Proof.Machine

/-! ### The requests of the pipeline (R60) -/

/-- DECODE's request reads the raw fields from the ports of the response before it. -/
theorem decode_chainDecode (r : Rsp) :
    decode (chainDecode r) = .decode (r.y.extractLsb' 0 1) (r.y1.extractLsb' 0 8) (r.y2.extractLsb' 0 23) := by
  have hsign : (r.yLow.setWidth 64).extractLsb' 0 1 = r.y.extractLsb' 0 1 := by
    rw [BitVec.extractLsb'_setWidth_of_le (by omega), Machine.Rsp.yLow, extractLsb'_extractLsb'_low _ _ (by omega)]
  simp [decode, chainDecode, Op.ofCode, hsign]

/-- RECON's request reads the decoded numbers from the ports of the response before it. -/
theorem decode_chainRecon (r : Rsp) (k : BitVec 2) :
    decode (chainRecon r k) = .recon r.yLow r.y1 r.y2 (Category.ofCode k) := by
  simp [decode, chainRecon, Op.ofCode, BitVec.extractLsb'_setWidth_of_le]

namespace Machine

/-- A pattern decomposed, and the fields decoded (R60). -/
theorem fxq_chainDecode_decomp (p : Pat32) :
    fxq (chainDecode (fxq (encode (.decomp p)))) = decodeRsp (sign32 p) (exp32 p) (frac32 p) := by
  obtain ⟨hs, he, hf⟩ := respond_decomp_slices p
  rw [fxq, decode_chainDecode, fxq, decode_encode, hs, he, hf, respond_decode]

/-- Decoded numbers given to RECON with a category of the host's choice (R60, R137). -/
theorem fxq_chainRecon_decode (s : BitVec 1) (e : BitVec 8) (f : BitVec 23) (k : BitVec 2) :
    (fxq (chainRecon (decodeRsp s e f) k)).y =
      (reconstruct (multiplier s) (expValue e) (mantValue e f) (Category.ofCode k)).setWidth 64 := by
  rw [fxq, decode_chainRecon, yLow_decodeRsp]
  rfl

/-! ### The path of RECON (R131 to R134) -/

/-- The infinity of a sign, as a pattern (R73, R132). -/
theorem infinity_of_sign32 (p : Pat32) :
    pack32 (sign32 p) 255#8 0#23 = if p.getLsbD 31 then 0xFF800000#32 else 0x7F800000#32 := by
  simp only [← sign32_eq_one_iff]
  rcases BitVec.eq_zero_or_eq_one (sign32 p) with hs | hs <;> rw [hs] <;> decide

/-- RECON by its category (R131 to R134). -/
theorem reconstruct_eq (A B C : Pat32) (K : Category) :
    reconstruct A B C K =
      if K = .nan then 0x7FC00000#32
      else if K = .infinity then (if A.getLsbD 31 then 0xFF800000#32 else 0x7F800000#32)
      else fmul32 (fmul32 A B) C := by
  cases K with
  | nan => rfl
  | infinity => exact infinity_of_sign32 A
  | normal => rfl
  | subnormal => rfl

/-- RECON of decoded numbers with their own category is the pattern they came from, or the canonical NaN (R136). -/
theorem reconstruct_decoded (s : BitVec 1) (e : BitVec 8) (f : BitVec 23) :
    reconstruct (multiplier s) (expValue e) (mantValue e f) (category e f) =
      if e = 255#8 ∧ f ≠ 0#23 then Config.qnan else pack32 s e f := by
  obtain ⟨hnormal, hsubnormal, hinfinity, hnan⟩ := category_eq_iff e f
  cases hcat : category e f with
  | normal =>
    obtain ⟨-, h255⟩ := hnormal.1 hcat
    rw [if_neg (fun h => h255 h.1)]
    exact (fmul32_decoded h255 s f).1
  | subnormal =>
    have h255 : e ≠ 255#8 := by rw [hsubnormal.1 hcat]; decide
    rw [if_neg (fun h => h255 h.1)]
    exact (fmul32_decoded h255 s f).1
  | infinity =>
    obtain ⟨rfl, rfl⟩ := hinfinity.1 hcat
    rw [if_neg (fun h => h.2 rfl), reconstruct, multiplier, sign32_pack32]
  | nan => rw [if_pos (hnan.1 hcat), reconstruct]

/-- With the category dropped, a special pattern comes back as the zero of its sign (R116, R137). -/
theorem reconstruct_special {K : Category} (hK : K = .normal ∨ K = .subnormal) (s : BitVec 1) (f : BitVec 23) :
    reconstruct (multiplier s) (expValue 255#8) (mantValue 255#8 f) K = pack32 s 0#8 0#23 := by
  have hexp : expValue 255#8 = 0x00000000#32 := if_pos rfl
  have hmant : mantValue 255#8 f = 0x00000000#32 := if_pos rfl
  have hzero : fmul32 (fmul32 (multiplier s) 0x00000000#32) 0x00000000#32 = pack32 s 0#8 0#23 := by
    rcases BitVec.eq_zero_or_eq_one s with rfl | rfl <;> decide
  rw [hexp, hmant, ← hzero]
  rcases hK with rfl | rfl <;> rfl

end Machine
end Sys2Proof
end

section
/-! PROOFS. The statements of the reconstructor (spec/43_reconstructor.md). -/

namespace Sys2Proof.Proofs

open Sys2Proof Sys2Proof.Machine

/-- Settles O43: the three numbers of a finite pattern multiply to it exactly, and the other two categories bypass the
arithmetic. -/
theorem roundTripRecoversEveryNonNaN : Obligations.RoundTripRecoversEveryNonNaN := by
  intro p
  have hcat : Category.ofCode (decodeRsp (sign32 p) (exp32 p) (frac32 p)).cat = category (exp32 p) (frac32 p) :=
    Category.ofCode_code_eq _
  simp only [fxq_chainDecode_decomp, fxq_chainRecon_decode, hcat, reconstruct_decoded, pack32_fields]
  refine ⟨?_, ?_, ?_⟩
  · intro hnan
    rw [if_neg (of_decide_eq_false hnan)]
  · intro hnan
    rw [if_pos (of_decide_eq_true hnan)]
    decide
  · intro hfin
    obtain ⟨-, hright, hswapped⟩ := fmul32_decoded ((isFinite32_iff p).1 hfin) (sign32 p) (frac32 p)
    rw [yLow_decodeRsp, decodeRsp, hright, hswapped, pack32_fields]
    exact ⟨rfl, rfl⟩

/-- Settles O42: RECON's transaction answers with the result of the path that the category selects. -/
theorem reconResult : Obligations.ReconResult := by
  intro A B C K s
  rw [← reconstruct_eq]
  exact exec_eq_answer _ s

/-- Settles O44: the multiplier times `+0.0` times `+0.0` is the zero of the sign. -/
theorem droppedCategoryGivesSignedZero : Obligations.DroppedCategoryGivesSignedZero := by
  intro S F k hk
  have hK : Category.ofCode k = .normal ∨ Category.ofCode k = .subnormal := by
    rcases hk with rfl | rfl
    · exact .inl rfl
    · exact .inr rfl
  rw [respond_decode, fxq_chainRecon_decode, reconstruct_special hK]
  rcases BitVec.eq_zero_or_eq_one S with rfl | rfl <;> decide

/-- Settles O45: each row is evaluated. -/
theorem reconWorkedResults : Obligations.ReconWorkedResults := by
  unfold Obligations.ReconWorkedResults
  decide

end Sys2Proof.Proofs
end

section
/-! SUPPORT. The value rule of the quantizer (R140): truncation toward zero, saturation, and `quant` on the integer form
of a float as `quantQ` of its value. -/

namespace Sys2Proof.Machine

/-! ### Truncation toward zero (R9) -/

theorem truncQ_of_nonneg {r : ℚ} (h : 0 ≤ r) : truncQ r = ⌊r⌋ := if_pos h

theorem truncQ_neg (r : ℚ) : truncQ (-r) = -truncQ r := by
  rcases lt_trichotomy r 0 with h | rfl | h
  · rw [truncQ, truncQ, if_pos (by linarith), if_neg (by linarith), Int.floor_neg]
  · simp [truncQ]
  · rw [truncQ, truncQ, if_neg (by linarith), if_pos h.le, Int.ceil_neg]

theorem truncQ_intCast (i : Int) : truncQ (i : ℚ) = i := by
  unfold truncQ
  split
  · exact Int.floor_intCast i
  · exact Int.ceil_intCast i

/-- The integer part of a number lies next to it on the side of zero (R9). -/
theorem truncQ_toward_zero (r : ℚ) :
    |(truncQ r : ℚ)| ≤ |r| ∧ |r| - |(truncQ r : ℚ)| < 1 ∧ 0 ≤ (truncQ r : ℚ) * r := by
  have nonneg {x : ℚ} (hx : 0 ≤ x) :
      |(truncQ x : ℚ)| ≤ |x| ∧ |x| - |(truncQ x : ℚ)| < 1 ∧ 0 ≤ (truncQ x : ℚ) * x := by
    have hfloor : (0 : ℚ) ≤ (⌊x⌋ : Int) := by exact_mod_cast Int.floor_nonneg.2 hx
    rw [truncQ_of_nonneg hx, abs_of_nonneg hfloor, abs_of_nonneg hx]
    exact ⟨Int.floor_le x, by linarith [Int.lt_floor_add_one x], mul_nonneg hfloor hx⟩
  rcases le_total 0 r with h | h
  · exact nonneg h
  · simpa [truncQ_neg] using nonneg (neg_nonneg.2 h)

/-- Nothing is left of a magnitude below 1 (R9). -/
theorem truncQ_eq_zero {r : ℚ} (h : |r| < 1) : truncQ r = 0 := by
  have hlt : |(truncQ r : ℚ)| < 1 := (truncQ_toward_zero r).1.trans_lt h
  exact Int.abs_lt_one_iff.1 (by exact_mod_cast hlt)

/-- The integer part of `(-1)^s * m * 2^e` has the integer part of the magnitude, and the sign (R144). -/
theorem truncQ_dyadic (s : BitVec 1) (m : Nat) (e : Int) : truncQ (dyadic s m e) = signedInt s (integerPart m e) := by
  have hmag : truncQ ((m : ℚ) * (2 : ℚ) ^ e) = integerPart m e := by
    rw [integerPart_eq_floor, truncQ_of_nonneg (by positivity)]
  rw [dyadic_eq, signFactor, signedInt]
  split
  · rw [neg_one_mul, truncQ_neg, hmag]
  · rw [one_mul, hmag]

/-! ### `quant` on a real (R140) -/

theorem quantQ_of_one_le {v : ℚ} (h : 1 ≤ v) : quantQ v = 127 := if_pos h

theorem quantQ_of_le_neg_one {v : ℚ} (h : v ≤ -1) : quantQ v = -128 := by
  rw [quantQ, if_neg (by linarith), if_pos h]

theorem quantQ_of_abs_lt {v : ℚ} (h : |v| < 1) : quantQ v = truncQ (v * 128) := by
  obtain ⟨hlo, hhi⟩ := abs_lt.1 h
  rw [quantQ, if_neg (by linarith), if_neg (by linarith)]

/-- The case of `quant` that truncates stays off the lower clamp (R140, C2). -/
theorem truncQ_bounds {v : ℚ} (h : |v| < 1) : -127 ≤ truncQ (v * 128) ∧ truncQ (v * 128) ≤ 127 := by
  have hlt : |(truncQ (v * 128) : ℚ)| < 128 := by
    calc |(truncQ (v * 128) : ℚ)| ≤ |v * 128| := (truncQ_toward_zero _).1
      _ = |v| * 128 := by rw [abs_mul, abs_of_pos (by norm_num : (0 : ℚ) < 128)]
      _ < 128 := by linarith
  have hint : |truncQ (v * 128)| < 128 := by exact_mod_cast hlt
  obtain ⟨hlo, hhi⟩ := abs_lt.1 hint
  omega

/-- Truncation gives 127 in `[127/128, 1)` (R148). -/
theorem truncQ_eq_127_iff (v : ℚ) : truncQ (v * 128) = 127 ↔ 127 / 128 ≤ v ∧ v < 1 := by
  by_cases h : 0 ≤ v * 128
  · rw [truncQ_of_nonneg h, Int.floor_eq_iff]
    push_cast
    constructor
    · rintro ⟨hle, hlt⟩
      exact ⟨by linarith, by linarith⟩
    · rintro ⟨hle, hlt⟩
      exact ⟨by linarith, by linarith⟩
  · have hle : truncQ (v * 128) ≤ 0 := by
      rw [truncQ, if_neg h]
      exact Int.ceil_le.2 (by push_cast; linarith)
    constructor
    · omega
    · rintro ⟨hlo, -⟩
      exact absurd (by linarith) h

/-- A multiple of `2^-7` in range is quantized to its own integer (R149). -/
theorem quantQ_intCast_div {i : Int} (hlo : -128 ≤ i) (hhi : i ≤ 127) : quantQ ((i : ℚ) / 128) = i := by
  by_cases hmin : i = -128
  · rw [hmin]
    exact quantQ_of_le_neg_one (by norm_num)
  · have hlo' : ((-128 : Int) : ℚ) < i := by exact_mod_cast lt_of_le_of_ne hlo (Ne.symm hmin)
    have hhi' : (i : ℚ) ≤ (127 : Int) := by exact_mod_cast hhi
    push_cast at hlo' hhi'
    have habs : |(i : ℚ) / 128| < 1 := abs_lt.2 ⟨by linarith, by linarith⟩
    rw [quantQ_of_abs_lt habs, div_mul_cancel₀ _ (by norm_num), truncQ_intCast]

/-- `quant` on the integer form of a float is `quant` of its value (R140). -/
theorem quant_finite (s : BitVec 1) (m : Nat) (e : Int) : quant (.finite s m e) = quantQ (dyadic s m e) := by
  have hfloor : 1 ≤ integerPart m e ↔ 1 ≤ |dyadic s m e| := by
    rw [abs_dyadic, ← Nat.cast_le (α := Int), integerPart_eq_floor, Int.le_floor]
    norm_num
  by_cases h1 : 1 ≤ integerPart m e
  · have habs := hfloor.1 h1
    rw [quant, if_pos h1]
    rcases BitVec.eq_zero_or_eq_one s with rfl | rfl
    · have hpos : dyadic 0#1 m e = |dyadic 0#1 m e| := by rw [abs_dyadic, dyadic_eq]; simp [signFactor]
      exact (quantQ_of_one_le (by linarith)).symm
    · have hneg : dyadic 1#1 m e = -|dyadic 1#1 m e| := by rw [abs_dyadic, dyadic_eq]; simp [signFactor]
      exact (quantQ_of_le_neg_one (by linarith)).symm
  · have hscaled : dyadic s m e * 128 = dyadic s (m * Config.q7Scale) e := by
      simp only [dyadic, Config.q7Scale]
      push_cast
      ring
    rw [quant, if_neg h1, quantQ_of_abs_lt (not_le.1 (mt hfloor.2 h1)), hscaled, truncQ_dyadic]

end Sys2Proof.Machine
end

section
/-! SUPPORT. The bytes of the two quantizers by class and value (R141 to R143), and the round trips through them
(R149). -/

namespace Sys2Proof.Machine

/-! ### Q7 bytes (R76) -/

/-- The clamp of a sign: -128 or 127 (R148). -/
def saturated (s : BitVec 1) : Byte := if s = 1#1 then 0x80#8 else 0x7F#8

theorem saturated_sign32 (p : Pat32) : saturated (sign32 p) = if p.getLsbD 31 then 0x80#8 else 0x7F#8 := by
  simp only [saturated, sign32_eq_one_iff]

theorem saturated_sign64 (p : Pat64) : saturated (sign64 p) = if p.getLsbD 63 then 0x80#8 else 0x7F#8 := by
  simp only [saturated, sign64_eq_one_iff]

theorem saturated_eq_iff (s : BitVec 1) :
    (saturated s = 0x80#8 ↔ s = 1#1) ∧ (saturated s = 0x7F#8 ↔ s ≠ 1#1) := by
  rcases BitVec.eq_zero_or_eq_one s with rfl | rfl <;> decide

/-- A Q7 integer is read back from its byte (R76). -/
theorem q7Int_ofInt {i : Int} (hlo : -128 ≤ i) (hhi : i ≤ 127) : q7Int (BitVec.ofInt 8 i) = i :=
  BitVec.toInt_ofInt_eq_self (by decide) hlo (by omega)

/-- The byte of a truncated magnitude below 1 names its integer (R140). -/
theorem ofInt_truncQ_eq_iff {v : ℚ} (h : |v| < 1) (q : Byte) :
    BitVec.ofInt 8 (truncQ (v * 128)) = q ↔ truncQ (v * 128) = q7Int q := by
  obtain ⟨hlo, hhi⟩ := truncQ_bounds h
  constructor
  · rintro rfl
    exact (q7Int_ofInt (by omega) hhi).symm
  · intro hq
    rw [hq]
    exact BitVec.ofInt_toInt

/-! ### The bytes by class and value -/

/-- The byte of a 64-bit float (R140, R142, R143). -/
theorem q7Core_eq (p : Pat64) : q7Core p =
    if isNaN64 p then 0x00#8 else if isInf64 p then saturated (sign64 p) else BitVec.ofInt 8 (quantQ (val64 p)) := by
  have hinfinite (s : BitVec 1) : q7OfInt (quant (.infinite s)) = saturated s := by
    rcases BitVec.eq_zero_or_eq_one s with rfl | rfl <;> decide
  rw [q7Core, ext64]
  by_cases hinf : isInf64 p = true
  · rw [if_pos hinf, if_pos hinf, hinfinite]
  · rw [if_neg hinf, if_neg hinf, quant_finite]
    rfl

/-- Testing for a NaN before widening changes nothing, since a NaN stays one (R141, R143, R173). -/
theorem q7OfPat32_eq_q7Core_widen (p : Pat32) : q7OfPat32 p = q7Core (widen p) := by
  have hclass : isNaN64 (widen p) = isNaN32 p := (widen_class p).2
  by_cases hnan : isNaN32 p = true
  · rw [q7OfPat32, q7Core, hclass, if_pos hnan, if_pos hnan]
  · rw [q7OfPat32, if_neg hnan]

/-- The byte of a binary32 pattern (R140, R141, R143): widening keeps class, sign and value. -/
theorem q7OfPat32_eq (p : Pat32) : q7OfPat32 p =
    if isNaN32 p then 0x00#8 else if isInf32 p then saturated (sign32 p) else BitVec.ofInt 8 (quantQ (val32 p)) := by
  obtain ⟨hinf, hnan⟩ := widen_class p
  rw [q7OfPat32_eq_q7Core_widen, q7Core_eq, hnan, hinf, sign64_widen]
  by_cases he : exp32 p = 255#8
  · by_cases hf : frac32 p = 0#23 <;> simp [isNaN32, isInf32, he, hf]
  · rw [(widen_finite ((isFinite32_iff p).2 he)).2]

theorem q7Core_of_finite {p : Pat64} (h : exp64 p ≠ 2047#11) : q7Core p = BitVec.ofInt 8 (quantQ (val64 p)) := by
  rw [q7Core_eq, isNaN64_of_exp_ne h, isInf64_of_exp_ne h]
  rfl

theorem q7OfPat32_of_finite {p : Pat32} (h : isFinite32 p = true) :
    q7OfPat32 p = BitVec.ofInt 8 (quantQ (val32 p)) := by
  obtain ⟨hexp, hval⟩ := widen_finite h
  rw [q7OfPat32_eq_q7Core_widen, q7Core_of_finite hexp, hval]

/-! ### Round trips (R149) -/

theorem pat32OfQ7_exact (q : Byte) : isFinite32 (pat32OfQ7 q) = true ∧ val32 (pat32OfQ7 q) = valQ7 q := by
  obtain ⟨-, hfin, hval, -⟩ := Proofs.dequantizersAreExact q
  exact ⟨by rwa [respond, q7tsRsp, yLow_yOnly] at hfin, by rwa [respond, q7tsRsp, yLow_yOnly] at hval⟩

theorem pat64OfQ7_exact (q : Byte) : exp64 (pat64OfQ7 q) ≠ 2047#11 ∧ val64 (pat64OfQ7 q) = valQ7 q := by
  obtain ⟨-, -, -, hexp, hval, -⟩ := Proofs.dequantizersAreExact q
  exact ⟨hexp, hval⟩

/-- The value of a byte is quantized to the byte (R149). -/
theorem ofInt_quantQ_valQ7 (q : Byte) : BitVec.ofInt 8 (quantQ (valQ7 q)) = q := by
  have hlo : -128 ≤ q7Int q := BitVec.le_toInt q
  have hhi : q7Int q < 128 := BitVec.toInt_lt
  rw [valQ7, quantQ_intCast_div hlo (by omega)]
  exact BitVec.ofInt_toInt

theorem q7OfPat32_pat32OfQ7 (q : Byte) : q7OfPat32 (pat32OfQ7 q) = q := by
  obtain ⟨hfin, hval⟩ := pat32OfQ7_exact q
  rw [q7OfPat32_of_finite hfin, hval, ofInt_quantQ_valQ7]

theorem q7Core_pat64OfQ7 (q : Byte) : q7Core (pat64OfQ7 q) = q := by
  obtain ⟨hexp, hval⟩ := pat64OfQ7_exact q
  rw [q7Core_of_finite hexp, hval, ofInt_quantQ_valQ7]

/-- The pattern of a multiple of `2^-7` in range is the one that its integer is dequantized to, but for `-0.0`
(R149). -/
theorem pat32OfQ7_of_val32 {p : Pat32} {i : Int} (hfin : isFinite32 p = true) (hlo : -128 ≤ i) (hhi : i ≤ 127)
    (hval : val32 p = (i : ℚ) / 128) : pat32OfQ7 (BitVec.ofInt 8 i) = if i = 0 then 0x00000000#32 else p := by
  by_cases h0 : i = 0
  · rw [if_pos h0, h0]
    decide
  · obtain ⟨hfin', hval'⟩ := pat32OfQ7_exact (BitVec.ofInt 8 i)
    rw [valQ7, q7Int_ofInt hlo hhi, ← hval] at hval'
    have hne : val32 p ≠ 0 := by
      rw [hval]
      exact div_ne_zero (by exact_mod_cast h0) (by norm_num)
    rw [if_neg h0]
    refine eq_of_sign32_of_val32 hfin' hfin ?_ hval'
    rw [sign32_of_val32_ne_zero hne, sign32_of_val32_ne_zero (by rwa [hval']), hval']

/-- Below magnitude 1, quantize then dequantize truncates at the scale `2^-7` (R149). -/
theorem val32_pat32OfQ7_q7OfPat32 {p : Pat32} (hfin : isFinite32 p = true) (habs : |val32 p| < 1) :
    val32 (pat32OfQ7 (q7OfPat32 p)) = (truncQ (val32 p * 128) : ℚ) / 128 := by
  obtain ⟨hlo, hhi⟩ := truncQ_bounds habs
  rw [(pat32OfQ7_exact _).2, valQ7, q7OfPat32_of_finite hfin, quantQ_of_abs_lt habs, q7Int_ofInt (by omega) hhi]

/-- Truncation toward zero at the scale `2^-7` (R149). -/
theorem truncQ_scaled_toward_zero (v : ℚ) :
    |(truncQ (v * 128) : ℚ) / 128| ≤ |v| ∧ |v| - |(truncQ (v * 128) : ℚ) / 128| < 1 / 2 ^ 7 ∧
      0 ≤ (truncQ (v * 128) : ℚ) / 128 * v := by
  have h128 : |(128 : ℚ)| = 128 := by norm_num
  obtain ⟨hle, hnear, hsign⟩ := truncQ_toward_zero (v * 128)
  rw [abs_mul, h128] at hle hnear
  rw [abs_div, h128]
  exact ⟨by linarith, by linarith, by linarith⟩

end Sys2Proof.Machine
end

section
/-! SUPPORT. The quantizers on raw fields (R144, R148), once for both widths: a format is given by its `w` fraction bits
and its exponent bias. -/

namespace Sys2Proof.Machine

/-! ### Values and bytes by fields -/

/-- The value of a finite pattern of raw exponent `E` and fraction `F` (R71, R75). -/
def fieldValue (w bias : Nat) (s : BitVec 1) (E F : Nat) : ℚ :=
  dyadic s (if E = 0 then F else 2 ^ w + F) (if E = 0 then 1 - (bias : Int) - w else (E : Int) - (bias + w : Nat))

/-- The Q7 byte of a pattern by its fields (R140 to R143); the special raw exponent is `2 * bias + 1`. -/
def quantizedFields (w bias : Nat) (s : BitVec 1) (E F : Nat) : Byte :=
  if E = 2 * bias + 1 ∧ F ≠ 0 then 0x00#8
  else if E = 2 * bias + 1 ∧ F = 0 then saturated s
  else BitVec.ofInt 8 (quantQ (fieldValue w bias s E F))

theorem val32_eq_fieldValue (p : Pat32) :
    val32 p = fieldValue 23 127 (sign32 p) (exp32 p).toNat (frac32 p).toNat := by
  simp only [val32, mag32, ulp32, fieldValue, ← BitVec.toNat_inj]
  rfl

theorem val64_eq_fieldValue (p : Pat64) :
    val64 p = fieldValue 52 1023 (sign64 p) (exp64 p).toNat (frac64 p).toNat := by
  simp only [val64, mag64, ulp64, fieldValue, ← BitVec.toNat_inj]
  rfl

theorem isNaN32_iff (p : Pat32) : isNaN32 p = true ↔ (exp32 p).toNat = 2 * 127 + 1 ∧ (frac32 p).toNat ≠ 0 := by
  simp [isNaN32, ← BitVec.toNat_inj]

theorem isInf32_iff (p : Pat32) : isInf32 p = true ↔ (exp32 p).toNat = 2 * 127 + 1 ∧ (frac32 p).toNat = 0 := by
  simp [isInf32, ← BitVec.toNat_inj]

theorem isNaN64_iff (p : Pat64) : isNaN64 p = true ↔ (exp64 p).toNat = 2 * 1023 + 1 ∧ (frac64 p).toNat ≠ 0 := by
  simp [isNaN64, ← BitVec.toNat_inj]

theorem isInf64_iff (p : Pat64) : isInf64 p = true ↔ (exp64 p).toNat = 2 * 1023 + 1 ∧ (frac64 p).toNat = 0 := by
  simp [isInf64, ← BitVec.toNat_inj]

theorem q7OfPat32_eq_quantizedFields (p : Pat32) :
    q7OfPat32 p = quantizedFields 23 127 (sign32 p) (exp32 p).toNat (frac32 p).toNat := by
  simp only [q7OfPat32_eq, quantizedFields, val32_eq_fieldValue, isNaN32_iff, isInf32_iff]

theorem q7Core_eq_quantizedFields (p : Pat64) :
    q7Core p = quantizedFields 52 1023 (sign64 p) (exp64 p).toNat (frac64 p).toNat := by
  simp only [q7Core_eq, quantizedFields, val64_eq_fieldValue, isNaN64_iff, isInf64_iff]

section

variable {w bias E F : Nat}

/-! ### The binade of a value -/

/-- A value is below the power of two above its raw exponent, at raw exponent 0 too (R71, R75). -/
theorem abs_fieldValue_lt (hF : F < 2 ^ w) (s : BitVec 1) :
    |fieldValue w bias s E F| < (2 : ℚ) ^ ((E : Int) + 1 - bias) := by
  have h2 : (2 : ℚ) ≠ 0 := by norm_num
  rw [fieldValue, abs_dyadic]
  by_cases h0 : E = 0
  · have hm : (F : ℚ) < 2 ^ w := by exact_mod_cast hF
    calc _ = (F : ℚ) * (2 : ℚ) ^ (1 - (bias : Int) - w) := by rw [if_pos h0, if_pos h0]
      _ < 2 ^ w * (2 : ℚ) ^ (1 - (bias : Int) - w) := mul_lt_mul_of_pos_right hm (by positivity)
      _ = (2 : ℚ) ^ ((E : Int) + 1 - bias) := by
        rw [← zpow_natCast, ← zpow_add₀ h2]
        congr 1
        omega
  · have hm : ((2 ^ w + F : Nat) : ℚ) < 2 ^ (w + 1) := by
      rw [pow_succ]
      exact_mod_cast (by omega : 2 ^ w + F < 2 ^ w * 2)
    calc _ = ((2 ^ w + F : Nat) : ℚ) * (2 : ℚ) ^ ((E : Int) - (bias + w : Nat)) := by rw [if_neg h0, if_neg h0]
      _ < 2 ^ (w + 1) * (2 : ℚ) ^ ((E : Int) - (bias + w : Nat)) := mul_lt_mul_of_pos_right hm (by positivity)
      _ = (2 : ℚ) ^ ((E : Int) + 1 - bias) := by
        rw [← zpow_natCast, ← zpow_add₀ h2]
        congr 1
        omega

/-- With an implicit one a value is at least the power of two of its raw exponent (R71, R75). -/
theorem le_abs_fieldValue (h0 : E ≠ 0) (s : BitVec 1) :
    (2 : ℚ) ^ ((E : Int) - bias) ≤ |fieldValue w bias s E F| := by
  have hm : (2 : ℚ) ^ w ≤ ((2 ^ w + F : Nat) : ℚ) := by exact_mod_cast Nat.le_add_right _ _
  rw [fieldValue, abs_dyadic, if_neg h0, if_neg h0]
  calc (2 : ℚ) ^ ((E : Int) - bias) = 2 ^ w * (2 : ℚ) ^ ((E : Int) - (bias + w : Nat)) := by
        rw [← zpow_natCast, ← zpow_add₀ (by norm_num)]
        congr 1
        omega
    _ ≤ _ := mul_le_mul_of_nonneg_right hm (by positivity)

/-- Below the bias the magnitude is below 1 (R144). -/
theorem abs_fieldValue_lt_one (hF : F < 2 ^ w) (hE : E < bias) (s : BitVec 1) : |fieldValue w bias s E F| < 1 :=
  calc |fieldValue w bias s E F| < (2 : ℚ) ^ ((E : Int) + 1 - bias) := abs_fieldValue_lt hF s
    _ ≤ 1 := zpow_le_one_of_nonpos₀ (by norm_num) (by omega)

/-- From the bias on `quant` saturates (R144, R148). -/
theorem ofInt_quantQ_of_bias_le (hbias : bias ≠ 0) (hE : bias ≤ E) (s : BitVec 1) :
    BitVec.ofInt 8 (quantQ (fieldValue w bias s E F)) = saturated s := by
  have habs : 1 ≤ |fieldValue w bias s E F| :=
    (one_le_zpow₀ (by norm_num) (by omega)).trans (le_abs_fieldValue (by omega) s)
  rw [fieldValue, abs_dyadic] at habs
  rw [fieldValue, dyadic_eq, signFactor, saturated]
  split
  · rw [quantQ_of_le_neg_one (by linarith)]
    decide
  · rw [quantQ_of_one_le (by linarith)]
    decide

/-! ### The bits of the magnitude (R144) -/

/-- The scaled value truncated is the significand shifted right, with the sign (R144). -/
theorem truncQ_fieldValue (h0 : E ≠ 0) (hE : E + 7 ≤ bias + w) (s : BitVec 1) :
    truncQ (fieldValue w bias s E F * 128) = signedInt s ((2 ^ w + F) >>> (bias + w - 7 - E)) := by
  obtain ⟨k, hk⟩ := Nat.le.dest hE
  have hscaled : fieldValue w bias s E F * 128 = dyadic s (2 ^ w + F) (-(k : Int)) := by
    rw [fieldValue, if_neg h0, if_neg h0, show (E : Int) - (bias + w : Nat) = -(k : Int) - 7 by omega, dyadic_eq,
      dyadic_eq, zpow_sub₀ (by norm_num)]
    norm_num
    ring
  rw [hscaled, truncQ_dyadic, show bias + w - 7 - E = k by omega]
  congr 1
  unfold integerPart
  split
  · obtain rfl : k = 0 := by omega
    simp
  · simp

theorem quantizedFields_of_bias_le (hbias : bias ≠ 0) (hE : bias ≤ E) (s : BitVec 1) :
    quantizedFields w bias s E F = if E = 2 * bias + 1 ∧ F ≠ 0 then 0x00#8 else saturated s := by
  rw [quantizedFields, ofInt_quantQ_of_bias_le hbias hE, ite_self]

theorem quantizedFields_of_lt_bias (hF : F < 2 ^ w) (hE : E < bias) (s : BitVec 1) :
    quantizedFields w bias s E F = BitVec.ofInt 8 (truncQ (fieldValue w bias s E F * 128)) := by
  rw [quantizedFields, if_neg (by omega), if_neg (by omega), quantQ_of_abs_lt (abs_fieldValue_lt_one hF hE s)]

/-- The bit-level form of the quantizers (R144). -/
theorem quantizedFields_bitLevel (hF : F < 2 ^ w) (hbias : 7 < bias) (hw : 7 ≤ w) (s : BitVec 1) :
    quantizedFields w bias s E F =
      if E = 2 * bias + 1 ∧ F ≠ 0 then 0x00#8
      else if bias ≤ E then saturated s
      else if bias - 7 ≤ E then BitVec.ofInt 8 (signedInt s ((2 ^ w + F) >>> (bias + w - 7 - E)))
      else 0x00#8 := by
  by_cases hsat : bias ≤ E
  · rw [quantizedFields_of_bias_le (by omega) hsat, if_pos hsat]
  · rw [quantizedFields_of_lt_bias hF (by omega), if_neg (by omega), if_neg hsat]
    by_cases hbig : bias - 7 ≤ E
    · rw [if_pos hbig, truncQ_fieldValue (by omega) (by omega)]
    · have habs : |fieldValue w bias s E F * 128| < 1 := by
        have hlt : |fieldValue w bias s E F| < 1 / 128 :=
          calc |fieldValue w bias s E F| < (2 : ℚ) ^ ((E : Int) + 1 - bias) := abs_fieldValue_lt hF s
            _ ≤ (2 : ℚ) ^ (-7 : Int) := zpow_le_zpow_right₀ (by norm_num) (by omega)
            _ = 1 / 128 := by norm_num
        rw [abs_mul, abs_of_pos (by norm_num : (0 : ℚ) < 128)]
        linarith
      rw [if_neg hbig, truncQ_eq_zero habs]
      rfl

/-! ### What gives the extreme bytes (R148) -/

/-- Only saturation gives -128 (R148). -/
theorem quantizedFields_eq_min_iff (hF : F < 2 ^ w) (hbias : bias ≠ 0) (s : BitVec 1) :
    quantizedFields w bias s E F = 0x80#8 ↔ ¬ (E = 2 * bias + 1 ∧ F ≠ 0) ∧ s = 1#1 ∧ bias ≤ E := by
  by_cases hE : bias ≤ E
  · rw [quantizedFields_of_bias_le hbias hE]
    by_cases hnan : E = 2 * bias + 1 ∧ F ≠ 0
    · rw [if_pos hnan]
      exact iff_of_false (by decide) (fun h => h.1 hnan)
    · rw [if_neg hnan, (saturated_eq_iff s).1]
      exact ⟨fun hs => ⟨hnan, hs, hE⟩, fun h => h.2.1⟩
  · have habs := abs_fieldValue_lt_one hF (not_le.1 hE) s
    have hbounds := truncQ_bounds habs
    have hmin : q7Int 0x80#8 = -128 := by decide
    rw [quantizedFields_of_lt_bias hF (not_le.1 hE), ofInt_truncQ_eq_iff habs, hmin]
    exact iff_of_false (by omega) (fun h => hE h.2.2)

/-- From the bias on, 127 is the clamp of the sign 0 (R148). -/
theorem quantizedFields_eq_max_iff_of_bias_le (hbias : bias ≠ 0) (hE : bias ≤ E) (s : BitVec 1) :
    quantizedFields w bias s E F = 0x7F#8 ↔ ¬ (E = 2 * bias + 1 ∧ F ≠ 0) ∧ s ≠ 1#1 := by
  rw [quantizedFields_of_bias_le hbias hE]
  by_cases hnan : E = 2 * bias + 1 ∧ F ≠ 0
  · rw [if_pos hnan]
    exact iff_of_false (by decide) (fun h => h.1 hnan)
  · rw [if_neg hnan, (saturated_eq_iff s).2]
    exact (and_iff_right hnan).symm

/-- Below the bias, 127 is the truncation of a value in `[127/128, 1)` (R148). -/
theorem quantizedFields_eq_max_iff_of_lt_bias (hF : F < 2 ^ w) (hE : E < bias) (s : BitVec 1) :
    quantizedFields w bias s E F = 0x7F#8 ↔
      127 / 128 ≤ fieldValue w bias s E F ∧ fieldValue w bias s E F < 1 := by
  have hmax : q7Int 0x7F#8 = 127 := by decide
  rw [quantizedFields_of_lt_bias hF hE, ofInt_truncQ_eq_iff (abs_fieldValue_lt_one hF hE s), hmax, truncQ_eq_127_iff]

/-- The four facts of saturation (R148). -/
theorem quantizedFields_saturates (hF : F < 2 ^ w) (hbias : bias ≠ 0) (s : BitVec 1) :
    (¬ (E = 2 * bias + 1 ∧ F ≠ 0) → bias ≤ E → quantizedFields w bias s E F = saturated s) ∧
    (quantizedFields w bias s E F = 0x80#8 ↔ ¬ (E = 2 * bias + 1 ∧ F ≠ 0) ∧ s = 1#1 ∧ bias ≤ E) ∧
    (bias ≤ E → (quantizedFields w bias s E F = 0x7F#8 ↔ ¬ (E = 2 * bias + 1 ∧ F ≠ 0) ∧ s ≠ 1#1)) ∧
    (E < bias → (quantizedFields w bias s E F = 0x7F#8 ↔
      127 / 128 ≤ fieldValue w bias s E F ∧ fieldValue w bias s E F < 1)) := by
  refine ⟨?_, quantizedFields_eq_min_iff hF hbias s, fun hE => quantizedFields_eq_max_iff_of_bias_le hbias hE s,
    fun hE => quantizedFields_eq_max_iff_of_lt_bias hF hE s⟩
  intro hnan hE
  rw [quantizedFields_of_bias_le hbias hE, if_neg hnan]

end

end Sys2Proof.Machine
end

section
/-! PROOFS. The statements of the Q7 codec (spec/44_q7_codec.md). -/

namespace Sys2Proof.Proofs

open Sys2Proof Sys2Proof.Machine

/-- Settles O46: the NaN test before widening and the one after it agree. -/
theorem q7fsIsCoreOfWidened : Obligations.Q7fsIsCoreOfWidened := by
  intro p s
  rw [← q7OfPat32_eq_q7Core_widen]
  exact exec_eq_answer _ s

/-- Settles O47: widening keeps class, sign and value, and the quantizer of the 64-bit float goes by these. -/
theorem q7fsByValue : Obligations.Q7fsByValue := by
  intro p s
  rw [← saturated_sign32, ← q7OfPat32_eq]
  exact exec_eq_answer _ s

/-- Settles O48: the integer form of `quant` is that of its value, and truncation stays below 128 in magnitude. -/
theorem q7fdByValue : Obligations.Q7fdByValue := by
  constructor
  · intro p s
    rw [← saturated_sign64, ← q7Core_eq]
    exact exec_eq_answer _ s
  · intro v hlo hhi
    have habs : |v| < 1 := abs_lt.2 ⟨hlo, hhi⟩
    rw [quantQ_of_abs_lt habs]
    exact truncQ_bounds habs

/-- Settles O49: below the bias the byte is the significand shifted right, with the sign, and from the bias on the
clamp; one closed form on the fields, at the constants of each width. -/
theorem quantizersBitLevel : Obligations.QuantizersBitLevel := by
  constructor
  · intro p
    have hform := quantizedFields_bitLevel (E := (exp32 p).toNat) (bias := 127) (frac32 p).isLt (by omega) (by omega)
      (sign32 p)
    rw [← q7OfPat32_eq_quantizedFields, saturated_sign32] at hform
    simp only [signedInt, sign32_eq_one_iff] at hform
    exact hform
  · intro p
    have hform := quantizedFields_bitLevel (E := (exp64 p).toNat) (bias := 1023) (frac64 p).isLt (by omega) (by omega)
      (sign64 p)
    rw [← q7Core_eq_quantizedFields, saturated_sign64] at hform
    simp only [signedInt, sign64_eq_one_iff] at hform
    exact hform

/-- Settles O50: from the bias on the byte is the clamp, and below it a truncation, which is never -128. -/
theorem quantizersSaturate : Obligations.QuantizersSaturate := by
  constructor
  · intro p E
    rw [← Bool.not_eq_true, ← Bool.not_eq_true, isNaN32_iff, ← saturated_sign32, ← sign32_eq_one_iff,
      q7OfPat32_eq_quantizedFields, val32_eq_fieldValue]
    exact quantizedFields_saturates (frac32 p).isLt (by omega) (sign32 p)
  · intro p E
    rw [← Bool.not_eq_true, ← Bool.not_eq_true, isNaN64_iff, ← saturated_sign64, ← sign64_eq_one_iff,
      q7Core_eq_quantizedFields, val64_eq_fieldValue]
    exact quantizedFields_saturates (frac64 p).isLt (by omega) (sign64 p)

/-- Settles O55: a multiple of `2^-7` is quantized to its integer, which has one pattern; between multiples, truncation
goes to the side of zero; `+1.0` saturates. -/
theorem quantizeThenDequantizeTruncates : Obligations.QuantizeThenDequantizeTruncates := by
  have hback (p : Pat32) : (respond (.q7ts (BitVec.extractLsb' 0 8 (respond (.q7fs p)).y))).yLow
      = pat32OfQ7 (q7OfPat32 p) := by
    have hbyte : BitVec.extractLsb' 0 8 (respond (.q7fs p)).y = q7OfPat32 p :=
      (BitVec.extractLsb'_setWidth_of_le (by omega)).trans (extractLsb'_whole _)
    rw [hbyte]
    exact yLow_yOnly _
  simp only [Obligations.QuantizeThenDequantizeTruncates, hback]
  refine ⟨?_, ?_, by decide⟩
  · intro p i hfin hlo hhi hval
    rw [q7OfPat32_of_finite hfin, hval, quantQ_intCast_div hlo hhi]
    exact pat32OfQ7_of_val32 hfin hlo hhi hval
  · intro p hfin habs
    rw [val32_pat32OfQ7_q7OfPat32 hfin habs]
    exact truncQ_scaled_toward_zero (val32 p)

/-- Settles O51: Q7TD's transaction answers with the closed form, whose value is exact. -/
theorem q7tdResult : Obligations.Q7tdResult := by
  refine ⟨?_, fun q => (pat64OfQ7_exact q).2⟩
  intro q s
  exact exec_eq_answer _ s

/-- Settles O52: Q7TS's transaction answers with the closed form, whose value is exact. -/
theorem q7tsResult : Obligations.Q7tsResult := by
  constructor
  · intro q s
    exact exec_eq_answer _ s
  · intro q
    rw [respond, q7tsRsp, yLow_yOnly]
    exact (pat32OfQ7_exact q).2

/-- Settles O54: a dequantized byte has the value of the byte, which is quantized to it. -/
theorem dequantizeThenQuantizeIsIdentity : Obligations.DequantizeThenQuantizeIsIdentity := by
  intro q
  constructor
  · have hlow : (respond (.q7ts q)).yLow = pat32OfQ7 q := yLow_yOnly _
    rw [hlow, respond, q7fsRsp, yOnly, q7OfPat32_pat32OfQ7]
  · have hy : (respond (.q7td q)).y = pat64OfQ7 q := rfl
    rw [hy, respond, q7fdRsp, yOnly, q7Core_pat64OfQ7]

end Sys2Proof.Proofs
end

section
/-! SUPPORT. The order of the patterns of sign 0 is that of their values (R71), and an exact difference (R81). -/

namespace Sys2Proof.Machine

theorem val32_eq_abs {p : Pat32} (h : sign32 p = 0#1) : val32 p = |val32 p| := by
  rw [abs_val32, val32, h, dyadic_eq, signFactor, if_neg (by decide), one_mul]

/-- A pattern of sign 0 is its exponent field above its fraction field, and a larger exponent is a higher binade, so
that the larger pattern has the larger value (R71). -/
theorem val32_lt_of_lt {p q : Pat32} (hp : sign32 p = 0#1) (hq : sign32 q = 0#1) (h : p < q) : val32 p < val32 q := by
  have hpf := toNat_eq_fields p
  have hqf := toNat_eq_fields q
  have hfp := (frac32 p).isLt
  have hfq := (frac32 q).isLt
  rw [BitVec.lt_def] at h
  rw [hp] at hpf
  rw [hq] at hqf
  rw [val32_eq_abs hp, val32_eq_abs hq]
  by_cases he : exp32 p = exp32 q
  · have hmag : mag32 p < mag32 q := by
      rw [he] at hpf
      simp only [mag32, he]
      split <;> omega
    rw [abs_val32, abs_val32, ulp32, ulp32, he]
    exact mul_lt_mul_of_pos_right (by exact_mod_cast hmag) (by positivity)
  · have hexp : (exp32 p).toNat < (exp32 q).toNat := by
      have hne := BitVec.toNat_ne_iff_ne.2 he
      omega
    rw [val32_eq_fieldValue p, val32_eq_fieldValue q]
    calc _ < (2 : ℚ) ^ (((exp32 p).toNat : Int) + 1 - (127 : Nat)) := abs_fieldValue_lt hfp _
      _ ≤ (2 : ℚ) ^ (((exp32 q).toNat : Int) - (127 : Nat)) := zpow_le_zpow_right₀ (by norm_num) (by omega)
      _ ≤ _ := le_abs_fieldValue (by omega) _

/-- Values of patterns of sign 0 order their patterns (R163). -/
theorem lt_of_val32_lt {p q : Pat32} (hp : sign32 p = 0#1) (hq : sign32 q = 0#1) (h : val32 p < val32 q) : p < q := by
  have hcases : p < q ∨ p = q ∨ q < p := by bv_omega
  rcases hcases with hlt | rfl | hgt
  · exact hlt
  · exact absurd h (lt_irrefl _)
  · exact absurd h (val32_lt_of_lt hq hp hgt).not_gt

/-- A difference that a finite pattern other than zero stands for is that pattern (R81). -/
theorem fsub32_exact {p q r : Pat32} (hp : isFinite32 p = true) (hq : isFinite32 q = true) (hr : isFinite32 r = true)
    (h0 : val32 r ≠ 0) (h : val32 r = val32 p - val32 q) : fsub32 p q = r := by
  rw [fsub32_eq, fadd32_of_finite hp (by rwa [isFinite32_negated32])]
  exact faddFinite_exact hr h0 (by rw [h, val32_negated32, sub_eq_add_neg])

end Sys2Proof.Machine
end

section
/-! SUPPORT. The patterns that the steps of UNITB go through (R160 to R162): the byte under the exponent field of 0.5,
and the byte at the scales of the difference and of the result. -/

namespace Sys2Proof.Machine

/-- The shifted byte lies in the fraction field, where the fixed pattern has zeros (R161). -/
theorem unitPattern_fields (B : Byte) :
    sign32 (unitPattern B) = 0#1 ∧ exp32 (unitPattern B) = 126#8 ∧
      (frac32 (unitPattern B)).toNat = B.toNat * 2 ^ 15 := by
  have hB := B.isLt
  have hadd : (unitPattern B).toNat = 126 * 2 ^ 23 + B.toNat * 2 ^ 15 := by
    have hshift : (B.setWidth 32 <<< Config.unitShift).toNat = B.toNat * 2 ^ 15 := by
      rw [Config.unitShift, BitVec.toNat_shiftLeft, BitVec.toNat_setWidth, Nat.shiftLeft_eq]
      omega
    have hor := Nat.two_pow_add_eq_or_of_lt (i := 23) (b := B.toNat * 2 ^ 15) (by omega) 126
    rw [unitPattern, BitVec.toNat_or, hshift, mul_comm 126]
    exact hor.symm
  refine ⟨?_, ?_, ?_⟩
  · apply BitVec.eq_of_toNat_eq
    rw [toNat_sign32, hadd, BitVec.toNat_ofNat]
    omega
  · apply BitVec.eq_of_toNat_eq
    rw [toNat_exp32, hadd, BitVec.toNat_ofNat]
    omega
  · rw [toNat_frac32, hadd]
    omega

theorem isFinite32_unitPattern (B : Byte) : isFinite32 (unitPattern B) = true := by
  obtain ⟨-, he, -⟩ := unitPattern_fields B
  rw [isFinite32_iff, he]
  decide

theorem val32_unitPattern (B : Byte) : val32 (unitPattern B) = 1 / 2 + (B.toNat : ℚ) / 512 := by
  obtain ⟨hs, he, hf⟩ := unitPattern_fields B
  rw [val32_of_exp_ne_zero (by rw [he]; decide), hs, he, hf, signFactor, if_neg (by decide)]
  push_cast
  norm_num
  ring

/-- The byte times `2^(b - 127)`: its leading one is the implicit one of exponent field `b + msb B`, and the zero byte
gives `+0.0` (R162). -/
def scaledByte (B : Byte) (b : Nat) : Pat32 := if B = 0#8 then 0x00000000#32 else shifted32 0#1 B.toNat b

theorem scaledByte_zero (b : Nat) : scaledByte 0#8 b = 0x00000000#32 := if_pos rfl

theorem scaledByte_of_ne_zero {B : Byte} (h : B ≠ 0#8) (b : Nat) : scaledByte B b = shifted32 0#1 B.toNat b := if_neg h

theorem msb_byte_le {B : Byte} (h : B ≠ 0#8) : B.toNat ≠ 0 ∧ msb B.toNat ≤ 7 := by
  have h0 : B.toNat ≠ 0 := BitVec.toNat_ne_iff_ne.2 h
  exact ⟨h0, Nat.lt_succ_iff.1 (msb_lt_of_lt h0 B.isLt)⟩

section

variable {b : Nat} (hb0 : 0 < b) (hb : b + 7 < 255)

include hb0 hb

/-- A scaled byte other than zero is a normal pattern (R163). -/
theorem scaledByte_exponent {B : Byte} (h : B ≠ 0#8) :
    exp32 (scaledByte B b) ≠ 0#8 ∧ exp32 (scaledByte B b) ≠ 255#8 := by
  obtain ⟨h0, hmsb⟩ := msb_byte_le h
  obtain ⟨-, he, -⟩ := shifted32_fields (b := b) h0 (by omega) (by omega) 0#1
  rw [scaledByte_of_ne_zero h, ← normal_exponent_iff, he]
  omega

theorem represents_scaledByte (B : Byte) :
    Represents (scaledByte B b) 0#1 ((B.toNat : ℚ) * (2 : ℚ) ^ ((b : Int) - 127)) := by
  by_cases h : B = 0#8
  · subst h
    rw [scaledByte_zero]
    exact ⟨by decide, by decide, by rw [(val32_eq_zero_iff _).2 (by decide)]; simp⟩
  · obtain ⟨h0, hmsb⟩ := msb_byte_le h
    obtain ⟨-, h255⟩ := scaledByte_exponent hb0 hb h
    refine ⟨(isFinite32_iff _).2 h255, ?_, ?_⟩
    · rw [scaledByte_of_ne_zero h]
      exact sign32_pack32 _ _ _
    · rw [scaledByte_of_ne_zero h, val32_shifted32 h0 (by omega) hb0 (by omega), dyadic_eq, signFactor,
        if_neg (by decide), one_mul]

theorem isSub32_scaledByte (B : Byte) : isSub32 (scaledByte B b) = false := by
  by_cases h : B = 0#8
  · subst h
    rw [scaledByte_zero]
    decide
  · obtain ⟨hne, -⟩ := scaledByte_exponent hb0 hb h
    simp [isSub32, hne]

end

theorem represents_scaledByte_118 (B : Byte) : Represents (scaledByte B 118) 0#1 ((B.toNat : ℚ) / 512) := by
  convert represents_scaledByte (b := 118) (by omega) (by omega) B using 1
  norm_num [div_eq_mul_inv]

theorem represents_scaledByte_119 (B : Byte) : Represents (scaledByte B 119) 0#1 ((B.toNat : ℚ) / 256) := by
  convert represents_scaledByte (b := 119) (by omega) (by omega) B using 1
  norm_num [div_eq_mul_inv]

theorem represents_half : Represents 0x3F000000#32 0#1 (1 / 2) := by
  obtain ⟨-, -, -, -, -, hval, -⟩ := Proofs.constantPatternsHaveTheirValues
  exact ⟨by decide, by decide, hval⟩

theorem represents_two : Represents 0x40000000#32 0#1 2 := by
  obtain ⟨-, -, -, -, -, -, hval, -⟩ := Proofs.constantPatternsHaveTheirValues
  exact ⟨by decide, by decide, hval⟩

/-- Step (5a) of R160 is exact: `B / 512`, with the zero byte a difference of equal patterns (R162). -/
theorem fsub32_unitPattern (B : Byte) : fsub32 (unitPattern B) 0x3F000000#32 = scaledByte B 118 := by
  by_cases h : B = 0#8
  · subst h
    exact fsub32_self (isFinite32_unitPattern 0#8)
  · have hdiff := represents_scaledByte_118 B
    have hB : (B.toNat : ℚ) ≠ 0 := by exact_mod_cast (msb_byte_le h).1
    apply fsub32_exact (isFinite32_unitPattern B) represents_half.finite hdiff.finite
    · rw [hdiff.value]
      positivity
    · rw [hdiff.value, val32_unitPattern, represents_half.value, add_sub_cancel_left]

/-- Step (5b) of R160 is exact: one up in the exponent, which gives `B / 256` (R162). -/
theorem unitValue_eq (B : Byte) : unitValue B = scaledByte B 119 := by
  rw [unitValue, fsub32_unitPattern]
  apply represents_two.fmul32_eq (represents_scaledByte_118 B)
  convert represents_scaledByte_119 B using 1
  ring

theorem respond_unitb (B : Byte) : respond (.unitb B) = yOnly ((scaledByte B 119).setWidth 64) := by
  rw [respond, unitbRsp, unitValue_eq]

/-- The results increase with the byte (R163). -/
theorem scaledByte_lt_of_lt {B C : Byte} (h : B < C) :
    scaledByte B 119 < scaledByte C 119 ∧ val32 (scaledByte B 119) < val32 (scaledByte C 119) := by
  have hB := represents_scaledByte_119 B
  have hC := represents_scaledByte_119 C
  have hval : val32 (scaledByte B 119) < val32 (scaledByte C 119) := by
    have hlt : (B.toNat : ℚ) < C.toNat := by exact_mod_cast BitVec.lt_def.1 h
    rw [hB.value, hC.value]
    linarith
  exact ⟨lt_of_val32_lt hB.sign hC.sign hval, hval⟩

end Sys2Proof.Machine
end

section
/-! PROOFS. The statements of the Unit-Interval Byte Mapper (spec/45_unit_interval_byte_mapper.md). -/

namespace Sys2Proof.Proofs

open Sys2Proof Sys2Proof.Machine

/-- Settles O56: UNITB's transaction answers with the five steps as the model takes them. -/
theorem unitbResult : Obligations.UnitbResult := by
  intro B s
  exact exec_eq_answer _ s

/-- Settles O57: no step rounds, because the byte has a pattern at the scale of the difference and at that of the
result. -/
theorem unitbIsByteOver256 : Obligations.UnitbIsByteOver256 := by
  intro B
  rw [respond_unitb, yLow_yOnly]
  refine ⟨rfl, val32_unitPattern B, ?_, (represents_scaledByte_119 B).value, rfl⟩
  have hdiff : fsub32 (0x3F000000#32 ||| (B.setWidth 32 <<< 15)) 0x3F000000#32 = scaledByte B 118 :=
    fsub32_unitPattern B
  rw [hdiff]
  exact (represents_scaledByte_118 B).value

/-- Settles O58: the results have sign 0 and the values `B / 256`, and sign and value order their patterns. -/
theorem unitbIsStrictlyIncreasing : Obligations.UnitbIsStrictlyIncreasing := by
  constructor
  · intro B C h
    obtain ⟨hpat, hval⟩ := scaledByte_lt_of_lt h
    rw [respond_unitb, respond_unitb, yLow_yOnly, yLow_yOnly]
    refine ⟨?_, hval⟩
    have hlt := BitVec.lt_def.1 hpat
    rw [yOnly, yOnly]
    bv_omega
  · intro B
    have hr := represents_scaledByte_119 B
    have hle : (B.toNat : ℚ) ≤ 255 := by exact_mod_cast Nat.lt_succ_iff.1 B.isLt
    rw [respond_unitb, yLow_yOnly]
    refine ⟨hr.value, ?_, ?_, hr.sign, isSub32_scaledByte (by omega) (by omega) B, ?_⟩
    · rw [hr.value]
      positivity
    · rw [hr.value]
      linarith
    · intro h0
      have hone : scaledByte 1#8 119 = 0x3B800000#32 := by decide
      rw [← hone]
      have hB : 1#8 = B ∨ 1#8 < B := by bv_omega
      rcases hB with rfl | hlt
      · exact BitVec.le_refl _
      · exact BitVec.le_of_lt (scaledByte_lt_of_lt hlt).1

/-- Settles O59: each row is evaluated. -/
theorem unitbWorkedResults : Obligations.UnitbWorkedResults := by
  unfold Obligations.UnitbWorkedResults
  decide

end Sys2Proof.Proofs
end
